-- ==== Sys2Proof/Word.lean ====
section
/-! DEFINITION. The word types of the machine (00_scope.md R14, 30_encoding.md R82): everything is unsigned,
and `u8`, `u16` narrow an exact natural number by taking it mod 256 or mod 65536. -/

namespace Sys2Proof

/-- Four bits: a register number, a hex key, a sprite height (R82). -/
abbrev Nibble := BitVec 4

/-- One memory cell, one general register, the immediate nn (R20, R60, R82). -/
abbrev Byte := BitVec 8

/-- The 12-bit address field nnn (R82). -/
abbrev Addr12 := BitVec 12

/-- Sixteen bits: pc, I, a stack entry, an instruction word (R7, R23, R32, R81). -/
abbrev Word := BitVec 16

/-- `u8(v)` = v mod 256 (R14). -/
def u8 (n : Nat) : Byte := BitVec.ofNat 8 n

/-- `u16(v)` = v mod 65536 (R14). -/
def u16 (n : Nat) : Word := BitVec.ofNat 16 n

end Sys2Proof
end

