-- ==== Sys2Proof/Syntax.lean ====
section
/-! DEFINITION. The 33 instructions (30_encoding.md R84 to R89), one constructor per row of
spec/opcode_table.json, in the table's order. Every field has exactly the width R82 gives it. -/

namespace Sys2Proof

/-- An instruction: its kind and its operand fields (R82, R84). -/
inductive Instr where
  /-- 00E0 CLS (R177). -/
  | cls
  /-- 00EE RET (R100). -/
  | ret
  /-- 1nnn JP nnn (R101). -/
  | jp (nnn : Addr12)
  /-- 2nnn CALL nnn (R102). -/
  | call (nnn : Addr12)
  /-- 3xnn SE Vx, nn (R103). -/
  | seImm (x : Nibble) (nn : Byte)
  /-- 4xnn SNE Vx, nn (R104). -/
  | sneImm (x : Nibble) (nn : Byte)
  /-- 5xy0 SE Vx, Vy (R105). -/
  | seReg (x y : Nibble)
  /-- 6xnn LD Vx, nn (R120). -/
  | ldImm (x : Nibble) (nn : Byte)
  /-- 7xnn ADD Vx, nn (R121). -/
  | addImm (x : Nibble) (nn : Byte)
  /-- 8xy0 LD Vx, Vy (R122). -/
  | ldReg (x y : Nibble)
  /-- 8xy1 OR Vx, Vy (R123). -/
  | orReg (x y : Nibble)
  /-- 8xy2 AND Vx, Vy (R124). -/
  | andReg (x y : Nibble)
  /-- 8xy3 XOR Vx, Vy (R125). -/
  | xorReg (x y : Nibble)
  /-- 8xy4 ADD Vx, Vy (R126). -/
  | addReg (x y : Nibble)
  /-- 8xy5 SUB Vx, Vy (R127). -/
  | sub (x y : Nibble)
  /-- 8xy6 SHR Vx: y is encoded and not read (R83, R128). -/
  | shr (x y : Nibble)
  /-- 8xy7 SUBN Vx, Vy (R129). -/
  | subn (x y : Nibble)
  /-- 8xyE SHL Vx: y is encoded and not read (R83, R130). -/
  | shl (x y : Nibble)
  /-- 9xy0 SNE Vx, Vy (R106). -/
  | sneReg (x y : Nibble)
  /-- Annn LD I, nnn (R150). -/
  | ldI (nnn : Addr12)
  /-- Cxnn RND Vx, nn (R131). -/
  | rnd (x : Nibble) (nn : Byte)
  /-- Dxyn DRW Vx, Vy, n (R178). -/
  | drw (x y n : Nibble)
  /-- Ex9E SKP Vx (R197). -/
  | skp (x : Nibble)
  /-- ExA1 SKNP Vx (R198). -/
  | sknp (x : Nibble)
  /-- Fx07 LD Vx, DT (R200). -/
  | ldVxDt (x : Nibble)
  /-- Fx0A LD Vx, K (R199). -/
  | ldVxK (x : Nibble)
  /-- Fx15 LD DT, Vx (R201). -/
  | ldDtVx (x : Nibble)
  /-- Fx18 LD ST, Vx (R202). -/
  | ldStVx (x : Nibble)
  /-- Fx1E ADD I, Vx (R151). -/
  | addI (x : Nibble)
  /-- Fx29 LD F, Vx (R152). -/
  | ldF (x : Nibble)
  /-- Fx33 LD B, Vx (R153). -/
  | ldB (x : Nibble)
  /-- Fx55 LD [I], Vx (R154). -/
  | ldMemVx (x : Nibble)
  /-- Fx65 LD Vx, [I] (R155). -/
  | ldVxMem (x : Nibble)
  deriving DecidableEq, Repr

end Sys2Proof
end

