-- ==== Sys2Proof/Decode.lean ====
section
/-! DEFINITION. The instruction_decoder (30_encoding.md R80 to R91): the fields of a word, the decode, total
on every word and on any bytes and rejecting by name, and the encoder written from the same tables. -/

namespace Sys2Proof

/-! ### The fields of a word (R82) -/

/-- op = w[15:12]. -/
def opOf (w : Word) : Nibble := w.extractLsb' 12 4
/-- x = w[11:8]. -/
def xOf (w : Word) : Nibble := w.extractLsb' 8 4
/-- y = w[7:4]. -/
def yOf (w : Word) : Nibble := w.extractLsb' 4 4
/-- n = w[3:0]. -/
def nOf (w : Word) : Nibble := w.extractLsb' 0 4
/-- nn = w[7:0]. -/
def nnOf (w : Word) : Byte := w.extractLsb' 0 8
/-- nnn = w[11:0]. -/
def nnnOf (w : Word) : Addr12 := w.extractLsb' 0 12

/-- b0, the high byte of a word, stored at the lower address (R61, R81). -/
def hiByte (w : Word) : Byte := w.extractLsb' 8 8
/-- b1, the low byte of a word (R61, R81). -/
def loByte (w : Word) : Byte := w.extractLsb' 0 8
/-- w = b0 * 256 + b1 (R61, R81). -/
def joinBytes (b0 b1 : Byte) : Word := b0 ++ b1

/-! ### The decode -/

/-- Why no row of R84 to R89 selects the bytes: the groups of illegal words R90 lists. -/
inductive DecodeError where
  /-- Fewer than two bytes: every instruction is 2 bytes (R80). -/
  | truncated
  /-- op = 0 and neither 00E0 nor 00EE (R85). -/
  | system
  /-- op = 5 and n != 0 (R86). -/
  | skipEqual
  /-- op = 8 and n in 8 to D or F (R87). -/
  | alu
  /-- op = 9 and n != 0 (R86). -/
  | skipNotEqual
  /-- op = B (R84, R90). -/
  | familyB
  /-- op = E and nn neither 9E nor A1 (R88). -/
  | key
  /-- op = F and nn not one of the nine (R89). -/
  | misc
  deriving DecidableEq, Repr

/-- Family 0: two exact words (R85). -/
def decodeSystem (w : Word) : Except DecodeError Instr :=
  match w.toNat with
  | 0x00E0 => .ok .cls
  | 0x00EE => .ok .ret
  | _ => .error .system

/-- Family 8: n selects the function (R87). -/
def decodeAlu (x y n : Nibble) : Except DecodeError Instr :=
  match n.toNat with
  | 0x0 => .ok (.ldReg x y)
  | 0x1 => .ok (.orReg x y)
  | 0x2 => .ok (.andReg x y)
  | 0x3 => .ok (.xorReg x y)
  | 0x4 => .ok (.addReg x y)
  | 0x5 => .ok (.sub x y)
  | 0x6 => .ok (.shr x y)
  | 0x7 => .ok (.subn x y)
  | 0xE => .ok (.shl x y)
  | _ => .error .alu

/-- Family E: nn selects the function (R88). -/
def decodeKey (x : Nibble) (nn : Byte) : Except DecodeError Instr :=
  match nn.toNat with
  | 0x9E => .ok (.skp x)
  | 0xA1 => .ok (.sknp x)
  | _ => .error .key

/-- Family F: nn selects the function (R89). -/
def decodeMisc (x : Nibble) (nn : Byte) : Except DecodeError Instr :=
  match nn.toNat with
  | 0x07 => .ok (.ldVxDt x)
  | 0x0A => .ok (.ldVxK x)
  | 0x15 => .ok (.ldDtVx x)
  | 0x18 => .ok (.ldStVx x)
  | 0x1E => .ok (.addI x)
  | 0x29 => .ok (.ldF x)
  | 0x33 => .ok (.ldB x)
  | 0x55 => .ok (.ldMemVx x)
  | 0x65 => .ok (.ldVxMem x)
  | _ => .error .misc

/-- The decode of one word, first by op (R84); total, and an unlisted word is an error (R90, R91). -/
def decode (w : Word) : Except DecodeError Instr :=
  match (opOf w).toNat with
  | 0x0 => decodeSystem w
  | 0x1 => .ok (.jp (nnnOf w))
  | 0x2 => .ok (.call (nnnOf w))
  | 0x3 => .ok (.seImm (xOf w) (nnOf w))
  | 0x4 => .ok (.sneImm (xOf w) (nnOf w))
  | 0x5 => if nOf w = 0 then .ok (.seReg (xOf w) (yOf w)) else .error .skipEqual
  | 0x6 => .ok (.ldImm (xOf w) (nnOf w))
  | 0x7 => .ok (.addImm (xOf w) (nnOf w))
  | 0x8 => decodeAlu (xOf w) (yOf w) (nOf w)
  | 0x9 => if nOf w = 0 then .ok (.sneReg (xOf w) (yOf w)) else .error .skipNotEqual
  | 0xA => .ok (.ldI (nnnOf w))
  | 0xB => .error .familyB
  | 0xC => .ok (.rnd (xOf w) (nnOf w))
  | 0xD => .ok (.drw (xOf w) (yOf w) (nOf w))
  | 0xE => decodeKey (xOf w) (nnOf w)
  | _ => decodeMisc (xOf w) (nnOf w)

/-- The decode of any bytes: the first two are the word, high byte first (R80, R81); the rest is answered. -/
def decodeBytes : List Byte → Except DecodeError (Instr × List Byte)
  | b0 :: b1 :: rest =>
    match decode (joinBytes b0 b1) with
    | .ok i => .ok (i, rest)
    | .error e => .error e
  | _ => .error .truncated

/-! ### The encoder -/

/-- The word of an instruction (R82, R84 to R89). -/
def encode : Instr → Word
  | .cls => 0x00E0#16
  | .ret => 0x00EE#16
  | .jp nnn => 0x1#4 ++ nnn
  | .call nnn => 0x2#4 ++ nnn
  | .seImm x nn => 0x3#4 ++ x ++ nn
  | .sneImm x nn => 0x4#4 ++ x ++ nn
  | .seReg x y => 0x5#4 ++ x ++ y ++ 0x0#4
  | .ldImm x nn => 0x6#4 ++ x ++ nn
  | .addImm x nn => 0x7#4 ++ x ++ nn
  | .ldReg x y => 0x8#4 ++ x ++ y ++ 0x0#4
  | .orReg x y => 0x8#4 ++ x ++ y ++ 0x1#4
  | .andReg x y => 0x8#4 ++ x ++ y ++ 0x2#4
  | .xorReg x y => 0x8#4 ++ x ++ y ++ 0x3#4
  | .addReg x y => 0x8#4 ++ x ++ y ++ 0x4#4
  | .sub x y => 0x8#4 ++ x ++ y ++ 0x5#4
  | .shr x y => 0x8#4 ++ x ++ y ++ 0x6#4
  | .subn x y => 0x8#4 ++ x ++ y ++ 0x7#4
  | .shl x y => 0x8#4 ++ x ++ y ++ 0xE#4
  | .sneReg x y => 0x9#4 ++ x ++ y ++ 0x0#4
  | .ldI nnn => 0xA#4 ++ nnn
  | .rnd x nn => 0xC#4 ++ x ++ nn
  | .drw x y n => 0xD#4 ++ x ++ y ++ n
  | .skp x => 0xE#4 ++ x ++ 0x9E#8
  | .sknp x => 0xE#4 ++ x ++ 0xA1#8
  | .ldVxDt x => 0xF#4 ++ x ++ 0x07#8
  | .ldVxK x => 0xF#4 ++ x ++ 0x0A#8
  | .ldDtVx x => 0xF#4 ++ x ++ 0x15#8
  | .ldStVx x => 0xF#4 ++ x ++ 0x18#8
  | .addI x => 0xF#4 ++ x ++ 0x1E#8
  | .ldF x => 0xF#4 ++ x ++ 0x29#8
  | .ldB x => 0xF#4 ++ x ++ 0x33#8
  | .ldMemVx x => 0xF#4 ++ x ++ 0x55#8
  | .ldVxMem x => 0xF#4 ++ x ++ 0x65#8

/-- The two bytes of an instruction in address order (R81). -/
def encodeBytes (i : Instr) : List Byte := [hiByte (encode i), loByte (encode i)]

/-! ### The opcode table -/

/-- One row of spec/opcode_table.json: a word w is the row's when `w &&& mask = pattern`. -/
structure OpRow where
  mask : Word
  pattern : Word
  deriving DecidableEq, Repr

/-- The row of spec/opcode_table.json that an instruction belongs to. -/
def Instr.row : Instr → OpRow
  | .cls => ⟨0xFFFF, 0x00E0⟩
  | .ret => ⟨0xFFFF, 0x00EE⟩
  | .jp _ => ⟨0xF000, 0x1000⟩
  | .call _ => ⟨0xF000, 0x2000⟩
  | .seImm _ _ => ⟨0xF000, 0x3000⟩
  | .sneImm _ _ => ⟨0xF000, 0x4000⟩
  | .seReg _ _ => ⟨0xF00F, 0x5000⟩
  | .ldImm _ _ => ⟨0xF000, 0x6000⟩
  | .addImm _ _ => ⟨0xF000, 0x7000⟩
  | .ldReg _ _ => ⟨0xF00F, 0x8000⟩
  | .orReg _ _ => ⟨0xF00F, 0x8001⟩
  | .andReg _ _ => ⟨0xF00F, 0x8002⟩
  | .xorReg _ _ => ⟨0xF00F, 0x8003⟩
  | .addReg _ _ => ⟨0xF00F, 0x8004⟩
  | .sub _ _ => ⟨0xF00F, 0x8005⟩
  | .shr _ _ => ⟨0xF00F, 0x8006⟩
  | .subn _ _ => ⟨0xF00F, 0x8007⟩
  | .shl _ _ => ⟨0xF00F, 0x800E⟩
  | .sneReg _ _ => ⟨0xF00F, 0x9000⟩
  | .ldI _ => ⟨0xF000, 0xA000⟩
  | .rnd _ _ => ⟨0xF000, 0xC000⟩
  | .drw _ _ _ => ⟨0xF000, 0xD000⟩
  | .skp _ => ⟨0xF0FF, 0xE09E⟩
  | .sknp _ => ⟨0xF0FF, 0xE0A1⟩
  | .ldVxDt _ => ⟨0xF0FF, 0xF007⟩
  | .ldVxK _ => ⟨0xF0FF, 0xF00A⟩
  | .ldDtVx _ => ⟨0xF0FF, 0xF015⟩
  | .ldStVx _ => ⟨0xF0FF, 0xF018⟩
  | .addI _ => ⟨0xF0FF, 0xF01E⟩
  | .ldF _ => ⟨0xF0FF, 0xF029⟩
  | .ldB _ => ⟨0xF0FF, 0xF033⟩
  | .ldMemVx _ => ⟨0xF0FF, 0xF055⟩
  | .ldVxMem _ => ⟨0xF0FF, 0xF065⟩

/-- The 33 rows of spec/opcode_table.json in its order. -/
def opcodeTable : List OpRow :=
  [Instr.row .cls, Instr.row .ret, Instr.row (.jp 0), Instr.row (.call 0), Instr.row (.seImm 0 0),
    Instr.row (.sneImm 0 0), Instr.row (.seReg 0 0), Instr.row (.ldImm 0 0), Instr.row (.addImm 0 0)] ++
  [Instr.row (.ldReg 0 0), Instr.row (.orReg 0 0), Instr.row (.andReg 0 0), Instr.row (.xorReg 0 0),
    Instr.row (.addReg 0 0), Instr.row (.sub 0 0), Instr.row (.shr 0 0), Instr.row (.subn 0 0),
    Instr.row (.shl 0 0), Instr.row (.sneReg 0 0)] ++
  [Instr.row (.ldI 0), Instr.row (.rnd 0 0), Instr.row (.drw 0 0 0), Instr.row (.skp 0), Instr.row (.sknp 0)] ++
  [Instr.row (.ldVxDt 0), Instr.row (.ldVxK 0), Instr.row (.ldDtVx 0), Instr.row (.ldStVx 0),
    Instr.row (.addI 0), Instr.row (.ldF 0), Instr.row (.ldB 0), Instr.row (.ldMemVx 0), Instr.row (.ldVxMem 0)]

/-- The row selects the word. -/
def OpRow.selects (r : OpRow) (w : Word) : Bool := w &&& r.mask == r.pattern

/-! ### The host's reading of a table word -/

/-- The word whose bits are `w`, bit 0 the least significant; every bit above `nbits` is 0. -/
def tableWord (nbits w : Nat) : Word := BitVec.ofNat 16 (w % 2 ^ nbits)

/-- What the decoder reads from the bytes of a table word as memory stores them, high byte first (R61). -/
def decodeTableWord (nbits w : Nat) : Option Instr :=
  match decodeBytes [hiByte (tableWord nbits w), loByte (tableWord nbits w)] with
  | .ok (i, _) => some i
  | .error _ => none

end Sys2Proof
end

