-- ==== Sys2Proof/Config.lean ====
section
/-! DEFINITION. What does not change as the machine runs: the fixed sizes (00_scope.md R6, R7), the four
parameters the spec leaves to an implementation (R10 to R13), and the free values (R17): constants with no
body, applied to a counter that `State` holds. -/

namespace Sys2Proof.Config

/-- MEM_SIZE (R6, R60). -/
def memSize : Nat := 0x1000
/-- FONT_BASE and the 80 bytes from it: 16 glyphs of 5 bytes (R6, R26). -/
def fontBase : Nat := 0x000
/-- The number of font bytes, 0x000 to 0x04F (R6). -/
def fontSize : Nat := 0x050
/-- FONT_GLYPH_BYTES (R6, R152). -/
def glyphBytes : Nat := 5
/-- PROGRAM_BASE, the reset pc (R6, R65). -/
def programBase : Nat := 0x200
/-- The longest program image: L + 0x200 <= 4096 (R6, R244). -/
def maxImage : Nat := 3584
/-- STACK_DEPTH (R6, R32). -/
def stackDepth : Nat := 16
/-- DISPLAY_W (R6, R37). -/
def displayW : Nat := 64
/-- DISPLAY_H (R6, R37). -/
def displayH : Nat := 32
/-- INSTR_HZ (R6, R227). -/
def instrHz : Nat := 540
/-- FRAME_HZ (R6, R227). -/
def frameHz : Nat := 60
/-- How many instruction ticks the reference schedule fires for one frame tick: 540 / 60 (R6, R228). -/
def ticksPerFrame : Nat := instrHz / frameHz

/-- TIMERS (R10): whether the machine has DT and ST. -/
inductive Timers where
  | absent
  | present
  deriving DecidableEq, Repr

/-- FX0A_MODE (R11): which key operation Fx0A reads. -/
inductive Fx0aMode where
  | pressedButton
  | nextPress
  deriving DecidableEq, Repr

/-- DRAW_WRAP (R12): the pixel-index formula of a draw. -/
inductive DrawWrap where
  | linear
  | toroidal
  deriving DecidableEq, Repr

/-- The four parameters of R10 to R13. A `State` carries one such record, which no step changes, so that a
statement about every state is a statement about every configuration (assumption log 6). -/
structure Params where
  /-- TIMERS (R10). -/
  timers : Timers
  /-- FX0A_MODE (R11). -/
  fx0aMode : Fx0aMode
  /-- DRAW_WRAP (R12). -/
  drawWrap : DrawWrap
  /-- FLAG_LAST (R13). -/
  flagLast : Bool
  deriving DecidableEq, Repr

/-- FREE VALUE. `RandomByte()` of Cxnn (R131, 92_eei_decisions.md D33): the byte of the n-th draw. It has no
body: every byte is possible at every draw, and no draw says anything of another (assumption log 11). -/
opaque randomByte : Nat → Byte

/-- FREE VALUE. The choice `ChooseKey(S)` makes (R192, D16), as a number that is reduced mod the size of S.
It has no body: any key of S is possible (assumption log 12). -/
opaque keyChoice : Nat → Nat

end Sys2Proof.Config
end

