-- ==== Sys2Proof/Machine/Defaults.lean ====
section
/-! DEFINITION. The values a fresh machine holds: the defaults the spec gives its parameters (00_scope.md R9 to
R13, 10_state.md R26) and the values this model names where the spec leaves a reset value open. They stand
here, and not in Config, because a test could show one of them wrong. -/

namespace Sys2Proof.Machine

/-- RESET_V, which the spec leaves open (R8, R27). DESIGN CHOICE, unsafe: zero (assumption log 1). -/
def resetV : Vector Byte 16 := Vector.replicate 16 0x00

/-- RESET_I, which the spec leaves open (R8, R27). DESIGN CHOICE, unsafe: zero (assumption log 2). -/
def resetI : Word := 0x0000

/-- INIT_MEM, default 0x00 (R9, 92_eei_decisions.md D10; assumption log 3). -/
def initMem : Byte := 0x00

/-- FONT, default: glyphs 0 to 7 of the conventional font (R26; PRESUMED, assumption log 4). -/
def fontLow : List Byte :=
  [0xF0, 0x90, 0x90, 0x90, 0xF0] ++ [0x20, 0x60, 0x20, 0x20, 0x70] ++
  [0xF0, 0x10, 0xF0, 0x80, 0xF0] ++ [0xF0, 0x10, 0xF0, 0x10, 0xF0] ++
  [0x90, 0x90, 0xF0, 0x10, 0x10] ++ [0xF0, 0x80, 0xF0, 0x10, 0xF0] ++
  [0xF0, 0x80, 0xF0, 0x90, 0xF0] ++ [0xF0, 0x10, 0x20, 0x40, 0x40]

/-- FONT, default: glyphs 8 to F (R26; PRESUMED, assumption log 4). -/
def fontHigh : List Byte :=
  [0xF0, 0x90, 0xF0, 0x90, 0xF0] ++ [0xF0, 0x90, 0xF0, 0x10, 0xF0] ++
  [0xF0, 0x90, 0xF0, 0x90, 0x90] ++ [0xE0, 0x90, 0xE0, 0x90, 0xE0] ++
  [0xF0, 0x80, 0x80, 0x80, 0xF0] ++ [0xE0, 0x90, 0x90, 0x90, 0xE0] ++
  [0xF0, 0x80, 0xF0, 0x80, 0xF0] ++ [0xF0, 0x80, 0xF0, 0x80, 0x80]

/-- FONT, the 80 bytes at 0x000 to 0x04F: glyph d at 5 d, one row per byte (R26). -/
def font : List Byte := fontLow ++ fontHigh

/-- FONT's default as the argument of a launch (R9). -/
def defaultFont : Vector Byte 80 := Vector.ofFn fun k => font.getD k.val initMem

/-- KEY_DURATION, in frame ticks (R6, R40; assumption log 20). -/
def keyDuration : Nat := 1

/-- The defaults of TIMERS, FX0A_MODE, DRAW_WRAP and FLAG_LAST (R10 to R13). -/
def defaultParams : Config.Params :=
  { timers := .absent, fx0aMode := .pressedButton, drawWrap := .linear, flagLast := true }

end Sys2Proof.Machine
end

