-- ==== Sys2Proof/Machine/Memory.lean ====
section
/-! DEFINITION. Memory as plain data and the memory_address_decoder (20_memory.md R60 to R69): a list of
(address, byte) pairs in one canonical form, and the reads and writes of single bytes and of runs of bytes. -/

namespace Sys2Proof.Machine

/-- The cells that differ from what a fresh machine holds, by rising address. -/
abbrev Memory := List Host.Cell

/-- What an address that is not listed reads as: FONT's default at 0x000 to 0x04F (FONT_BASE is 0), else INIT_MEM's
(R27, R240). A launch with other values lists the bytes that differ (Machine/Boot.lean; log 3, 4). -/
def unlisted (a : Nat) : Byte := font.getD a initMem

/-- The regions of the address map (R64). They are informational: every cell is read and written alike. -/
inductive Region where
  | font
  | low
  | program
  deriving DecidableEq, Repr

/-- memory_address_decoder (R63): the region of an address, or `none` for AddressError at 0x1000 and above. -/
def decodeAddr (a : Nat) : Option Region :=
  if Config.memSize ≤ a then none
  else if a < Config.fontBase + Config.fontSize then some .font
  else if a < Config.programBase then some .low
  else some .program

/-- The first address of `a`, `a + 1`, …, `a + n - 1` that the decoder refuses, in access order (R69, R216). -/
def firstBadAddr (a : Nat) : Nat → Option Nat
  | 0 => none
  | n + 1 => if decodeAddr a = none then some a else firstBadAddr (a + 1) n

/-- The byte at a decoded address (R67). -/
def Memory.read : Memory → Nat → Byte
  | [], a => unlisted a
  | (b, v) :: rest, a => if b = a then v else Memory.read rest a

/-- The list without its entries for `a`. -/
def Memory.erase : Memory → Nat → Memory
  | [], _ => []
  | (b, v) :: rest, a => if b = a then Memory.erase rest a else (b, v) :: Memory.erase rest a

/-- The list with an entry for `a` put before the first greater address. -/
def Memory.insert : Memory → Nat → Byte → Memory
  | [], a, v => [(a, v)]
  | (b, w) :: rest, a, v => if a < b then (a, v) :: (b, w) :: rest else (b, w) :: Memory.insert rest a v

/-- Write one byte at a decoded address (R67); a byte equal to the unlisted one leaves no entry. -/
def Memory.write (m : Memory) (a : Nat) (v : Byte) : Memory :=
  if v = unlisted a then m.erase a else (m.erase a).insert a v

/-- The bytes at `a`, `a + 1`, …, `a + n - 1`. -/
def Memory.readBytes (m : Memory) (a : Nat) : Nat → List Byte
  | 0 => []
  | n + 1 => m.read a :: m.readBytes (a + 1) n

/-- Write bytes at `a`, `a + 1`, … in that order (R69). -/
def Memory.writeBytes (m : Memory) (a : Nat) : List Byte → Memory
  | [] => m
  | b :: bs => (m.write a b).writeBytes (a + 1) bs

/-- Canonical from `lo` on: addresses rise strictly, lie in `lo` to 0xFFF, and no entry equals the unlisted byte. -/
def Memory.wfFrom (lo : Nat) : Memory → Bool
  | [] => true
  | (a, v) :: rest =>
    decide (lo ≤ a) && decide (a < Config.memSize) && decide (v ≠ unlisted a) && Memory.wfFrom (a + 1) rest

/-- The canonical form: equal memories are equal lists. -/
def Memory.wf (m : Memory) : Bool := Memory.wfFrom 0 m

end Sys2Proof.Machine
end

