-- ==== Sys2Proof/Machine/State.lean ====
section
/-! DEFINITION. The state as plain data (10_state.md), the reasons a step can stop, and the machine right after
reset (70_reset_and_hazards.md R241). -/

namespace Sys2Proof.Machine

/-- The framebuffer: 32 rows of 64 one-bit pixels, row 0 the top row (R37); column c of a row is its bit c. -/
abbrev Frame := Vector (BitVec 64) 32

/-- A key: one of the 16 hex keys, or EXIT, which no instruction can name (R40, R43). -/
inductive Key where
  | hex (k : Nibble)
  | exit
  deriving DecidableEq, Repr

/-- The wait subscriber (R42). -/
inductive Wait where
  | none
  | waiting
  | delivered (k : Nibble)
  deriving DecidableEq, Repr

/-- The scheduler's run state (R46). -/
inductive RunState where
  | running
  | stoppedExit
  | stoppedFault
  deriving DecidableEq, Repr

/-- The fatal conditions (R210). -/
inductive FaultKind where
  /-- The fetched word is in no row of the opcode table (R211). -/
  | decodeError
  /-- CALL with sp = 16 (R212). -/
  | stackOverflow
  /-- RET with sp = 0 (R212). -/
  | stackUnderflow
  /-- A fetch or data access at 0x1000 or above (R213). -/
  | addressError
  deriving DecidableEq, Repr

/-- The fault record (R214). -/
structure FaultRecord where
  kind : FaultKind
  code : BitVec 8
  /-- The address of the faulting instruction. -/
  pc : Word
  /-- Its first byte, absent when pc >= 0x1000. -/
  b0 : Option Byte
  /-- Its second byte, absent when pc + 1 >= 0x1000. -/
  b1 : Option Byte
  /-- The first failing address, present only for AddressError. -/
  addr : Option (BitVec 17)
  deriving DecidableEq, Repr

/-- What reaches the CORE from its clocks and its host (R220, R234). -/
inductive Event where
  /-- One instruction tick (R221), and the keys the host presses between its step and its exit check, in order,
  usually none (45_keys_timers.md R196; log 21). -/
  | instrTick (between : List Key)
  /-- One frame tick (R223). -/
  | frameTick
  /-- The host's register_press (R190). -/
  | registerPress (k : Key)
  deriving DecidableEq, Repr

/-- The whole machine. The last four fields are the model's own: the parameters, the count of free draws, the
picture the host was last given, and the events still to come. -/
structure State where
  /-- V0 to VF (R20). -/
  v : Vector Byte 16
  /-- The index register I (R23). -/
  i : Word
  /-- The program counter (R28). -/
  pc : Word
  /-- stack[0] to stack[15] (R32). -/
  stack : Vector Word 16
  /-- sp, the number of stack entries in use (R32). -/
  sp : Fin 17
  /-- The 4096 bytes of memory (R25). -/
  mem : Memory
  /-- fb[0] to fb[2047] (R37). -/
  fb : Frame
  /-- cnt[k] of the hex keys; absent is `none` (R40). -/
  hexKeys : Vector (Option Nat) 16
  /-- cnt[EXIT] (R40, R43). -/
  exitKey : Option Nat
  /-- The wait subscriber (R42). -/
  wait : Wait
  /-- The run state (R46). -/
  run : RunState
  /-- The fault record (R47). -/
  record : Option FaultRecord
  /-- The divider of the reference schedule, 0 to 8 (R50, R54, R228; log 10). -/
  div : Fin 9
  /-- DT; no instruction or tick reaches it when TIMERS = Absent (R52, log 15). -/
  dt : Byte
  /-- ST; no instruction or tick reaches it when TIMERS = Absent (R52, log 15). -/
  st : Byte
  /-- TIMERS, FX0A_MODE, DRAW_WRAP, FLAG_LAST (R10 to R13); no step changes them (log 6). -/
  cfg : Config.Params
  /-- How many free draws the run has made (R17; log 11). -/
  draws : Nat
  /-- The snapshot the host was given by the last flush (R175; log 13). -/
  shown : Option Frame
  /-- The events still to come, oldest first; when there are none the reference schedule goes on, and puts its frame
  tick here when div reaches 9 (log 9, 10). -/
  inputs : List Event
  deriving DecidableEq, Repr

/-- Why the machine cannot go on. There is no such reason: every fatal condition of the spec is a next state
with the run stopped and the fault record stored (R218, R221), and a stopped machine stays as it is (R224);
so this type is empty, and no step faults (assumption log 7). -/
inductive Fault
  deriving DecidableEq, Repr

/-- Why an instruction or a launch has no meaning. -/
inductive Refusal where
  /-- Raised by an arm of `exec` that has no meaning yet; safe, since the model stops where the hardware goes on. -/
  | notModelled (mnemonic : String)
  /-- Raised by `boot` for an image of more than 3584 bytes, which is outside every claim (R244); safe, since no
  run starts. -/
  | imageTooLong (bytes : Nat)
  deriving DecidableEq, Repr

/-- What a meaning answers. -/
abbrev Result := Host.Outcome State Fault Refusal

/-- The machine right after reset with the default parameters and no program loaded (R241). -/
def State.reset : State :=
  { v := resetV
    i := resetI
    pc := 0x0200
    stack := Vector.replicate 16 0x0000
    sp := 0
    mem := []
    fb := Vector.replicate 32 0
    hexKeys := Vector.replicate 16 .none
    exitKey := .none
    wait := .none
    run := .running
    record := .none
    div := 0
    dt := 0x00
    st := 0x00
    cfg := defaultParams
    draws := 0
    shown := .none
    inputs := [] }

end Sys2Proof.Machine
end

