-- ==== Sys2Proof/Machine/Ops.lean ====
section
/-! DEFINITION. The named operations over registers, stack, pc and memory, taking a fatal condition, and the
fetch (10_state.md R24, R33, R34; 60_exceptions.md R210 to R219; 30_encoding.md R81). -/

namespace Sys2Proof.Machine

/-! ### register_file (R24) -/

/-- readV(i). -/
def State.readV (s : State) (x : Nibble) : Byte := s.v[x.toNat]'x.isLt

/-- writeV(i, v). -/
def State.writeV (s : State) (x : Nibble) (b : Byte) : State := { s with v := s.v.set x.toNat b x.isLt }

/-- writeI(v). -/
def State.writeI (s : State) (w : Word) : State := { s with i := w }

/-! ### program_counter (R28, R29) -/

/-- pc <- target. -/
def State.setPc (s : State) (w : Word) : State := { s with pc := w }

/-- pc <- pc + 2 (R29). Only a pc no run reaches could wrap (R31, assumption log 17). -/
def State.advance (s : State) : State := s.setPc (s.pc + 2)

/-- pc <- pc + 4 when the condition holds, else pc + 2 (R29, R103). -/
def State.skipIf (s : State) (c : Bool) : State := s.setPc (if c then s.pc + 4 else s.pc + 2)

/-! ### call_stack (R33, R34) -/

/-- push(v); `none` when sp = 16. -/
def State.push (s : State) (w : Word) : Option State :=
  if h : s.sp.val < 16 then
    some { s with stack := s.stack.set s.sp.val w h, sp := ⟨s.sp.val + 1, by omega⟩ }
  else none

/-- pop(): the entry and the state after; `none` when sp = 0. -/
def State.pop (s : State) : Option (Word × State) :=
  if s.sp.val = 0 then none
  else some (s.stack[s.sp.val - 1], { s with sp := ⟨s.sp.val - 1, by omega⟩ })

/-! ### Memory (R67) -/

/-- MemRead(a, 1) at a decoded address (R16). -/
def State.readByte (s : State) (a : Nat) : Byte := s.mem.read a

/-- MemWrite of consecutive bytes at decoded addresses (R16, R69). -/
def State.storeBytes (s : State) (a : Nat) (bs : List Byte) : State := { s with mem := s.mem.writeBytes a bs }

/-! ### Free draws (R17) -/

/-- One free draw has been made. -/
def State.nextDraw (s : State) : State := { s with draws := s.draws + 1 }

/-! ### Taking a fatal condition

There is no return from one (R219), so no operation stands beside it. -/

/-- The code of a fatal condition (R210). -/
def FaultKind.code : FaultKind → BitVec 8
  | .decodeError => 1
  | .stackOverflow => 2
  | .stackUnderflow => 3
  | .addressError => 4

/-- The record of a fatal condition of the instruction at pc (R214). -/
def State.faultRecord (s : State) (kind : FaultKind) (b0 b1 : Option Byte) (addr : Option Nat) : FaultRecord :=
  { kind := kind, code := kind.code, pc := s.pc, b0 := b0, b1 := b1, addr := addr.map (BitVec.ofNat 17) }

/-- The run stops: the record is stored and nothing else changes (R215, R218, R221). -/
def State.stopFault (s : State) (r : FaultRecord) : State := { s with run := .stoppedFault, record := some r }

/-- `raise E(info)` inside an instruction (R17): its bytes are its encoding (assumption log 8). -/
def State.raise (s : State) (kind : FaultKind) (ins : Instr) (addr : Option Nat) : Result :=
  .next (s.stopFault (s.faultRecord kind (some (hiByte (encode ins))) (some (loByte (encode ins))) addr))

/-! ### Fetch (R81) -/

/-- The two bytes at pc, or the record of the AddressError the fetch raises (R81, R214, R216). -/
def State.fetch (s : State) : Except FaultRecord (Byte × Byte) :=
  if decodeAddr s.pc.toNat = none then
    .error (s.faultRecord .addressError none none (some s.pc.toNat))
  else if decodeAddr (s.pc.toNat + 1) = none then
    .error (s.faultRecord .addressError (some (s.readByte s.pc.toNat)) none (some (s.pc.toNat + 1)))
  else .ok (s.readByte s.pc.toNat, s.readByte (s.pc.toNat + 1))

end Sys2Proof.Machine
end

