-- ==== Sys2Proof/Machine/Operands.lean ====
section
/-! DEFINITION. The operand forms (30_encoding.md R83, 43_index_memory.md R156): immediates are zero-extended,
memory is reached at I + k, computed without wrapping. -/

namespace Sys2Proof.Machine

/-- zext_16(nnn) (R83). -/
def zext16 (nnn : Addr12) : Word := nnn.setWidth 16

/-- The address I + k, on naturals (R63, R156). -/
def State.indexAddr (s : State) (k : Nat) : Nat := s.i.toNat + k

/-- The first address of I, …, I + n - 1 that raises AddressError (R63, R69). -/
def State.badIndexAddr (s : State) (n : Nat) : Option Nat := firstBadAddr (s.indexAddr 0) n

/-- The n bytes at I, …, I + n - 1 (R69, R178). -/
def State.indexBytes (s : State) (n : Nat) : List Byte := s.mem.readBytes (s.indexAddr 0) n

/-- V0 to V[x], in order (R154). -/
def State.regsUpTo (s : State) (x : Nibble) : List Byte :=
  (List.range (x.toNat + 1)).map fun k => s.readV (BitVec.ofNat 4 k)

/-- The registers after V[k] <- MemRead(I + k, 1) for k in 0..x (R155). -/
def State.loadedRegs (s : State) (x : Nibble) : Vector Byte 16 :=
  Vector.ofFn fun r => if r.val ≤ x.toNat then s.readByte (s.indexAddr r.val) else s.v[r]

/-- V[k] <- MemRead(I + k, 1) for k in 0..x (R155). -/
def State.loadRegs (s : State) (x : Nibble) : State := { s with v := s.loadedRegs x }

/-- The hundreds, tens and ones of a byte (R153). -/
def bcdDigits (b : Byte) : List Byte := [u8 (b.toNat / 100), u8 (b.toNat / 10 % 10), u8 (b.toNat % 10)]

end Sys2Proof.Machine
end

