-- ==== Sys2Proof/Machine/ControlFlow.lean ====
section
/-! DEFINITION. Return, jump, call and the register skips (41_control_flow.md R100 to R108). -/

namespace Sys2Proof.Machine

/-- RET: pc <- pop(), used as it stands (R100). -/
def execRet (s : State) : Result :=
  match s.pop with
  | none => s.raise .stackUnderflow .ret none
  | some (w, t) => .next (t.setPc w)

/-- JP nnn: pc <- zext_16(nnn) (R101). -/
def execJp (nnn : Addr12) (s : State) : Result := .next (s.setPc (zext16 nnn))

/-- CALL nnn: push(pc + 2), then pc <- zext_16(nnn) (R102). -/
def execCall (nnn : Addr12) (s : State) : Result :=
  match s.push (s.pc + 2) with
  | none => s.raise .stackOverflow (.call nnn) none
  | some t => .next (t.setPc (zext16 nnn))

/-- SE Vx, nn (R103). -/
def execSeImm (x : Nibble) (nn : Byte) (s : State) : Result := .next (s.skipIf (s.readV x == nn))

/-- SNE Vx, nn (R104). -/
def execSneImm (x : Nibble) (nn : Byte) (s : State) : Result := .next (s.skipIf (s.readV x != nn))

/-- SE Vx, Vy (R105). -/
def execSeReg (x y : Nibble) (s : State) : Result := .next (s.skipIf (s.readV x == s.readV y))

/-- SNE Vx, Vy (R106). -/
def execSneReg (x y : Nibble) (s : State) : Result := .next (s.skipIf (s.readV x != s.readV y))

end Sys2Proof.Machine
end

