-- ==== Sys2Proof/Machine/Display.lean ====
section
/-! DEFINITION. The framebuffer operations and the collision_detector (44_display.md R170 to R175). -/

namespace Sys2Proof.Machine

/-- fb[p] (R37): row p div 64, column p mod 64. -/
def pixel (fb : Frame) (p : Fin 2048) : Bool := (fb[p.val / 64]).getLsbD (p.val % 64)

/-- fb[p] <- fb[p] ^ bit (R171). -/
def xorPixel (fb : Frame) (p : Fin 2048) (bit : Bool) : Frame :=
  if bit then fb.set (p.val / 64) (fb[p.val / 64] ^^^ BitVec.twoPow 64 (p.val % 64)) else fb

/-- clear(): every pixel off (R170). -/
def clearFrame : Frame := Vector.replicate 32 0

/-- index(c, r) under DRAW_WRAP (R172). -/
def pixelIndex (wrap : Config.DrawWrap) (c r : Nat) : Fin 2048 :=
  match wrap with
  | .linear => ⟨(r * 64 + c) % 2048, by omega⟩
  | .toroidal => ⟨r % 32 * 64 + c % 64, by omega⟩

/-- (sprite[dy] >> (7 - dx)) & 1: bit dx of a sprite row, most significant first (R171). -/
def spriteBit (b : Byte) (dx : Nat) : Bool := b.getLsbD (7 - dx)

/-- One sprite bit: the collision so far is ORed with (bit AND the pixel before the XOR), then the pixel is
XORed (R171, R173). -/
def drawBit (wrap : Config.DrawWrap) (x0 y0 dy : Nat) (b : Byte) (acc : Frame × Bool) (dx : Nat) : Frame × Bool :=
  let bit := spriteBit b dx
  let p := pixelIndex wrap (x0 + dx) (y0 + dy)
  (xorPixel acc.1 p bit, acc.2 || (bit && pixel acc.1 p))

/-- One sprite row: dx in 0..7 (R171). -/
def drawRow (wrap : Config.DrawWrap) (x0 y0 dy : Nat) (b : Byte) (acc : Frame × Bool) : Frame × Bool :=
  (List.range 8).foldl (drawBit wrap x0 y0 dy b) acc

/-- The sprite's rows from row dy on (R171). -/
def drawRows (wrap : Config.DrawWrap) (x0 y0 : Nat) : Nat → List Byte → Frame × Bool → Frame × Bool
  | _, [], acc => acc
  | dy, b :: bs, acc => drawRows wrap x0 y0 (dy + 1) bs (drawRow wrap x0 y0 dy b acc)

/-- draw(x0, y0, sprite): the framebuffer after it and whether any pixel collided (R171, R174). -/
def draw (wrap : Config.DrawWrap) (fb : Frame) (x0 y0 : Nat) (sprite : List Byte) : Frame × Bool :=
  drawRows wrap x0 y0 0 sprite (fb, false)

/-- The framebuffer becomes `fb`. -/
def State.setFb (s : State) (fb : Frame) : State := { s with fb := fb }

/-- flush(): the host is given a snapshot; the buffer does not change (R175; assumption log 13). -/
def State.flush (s : State) : State := { s with shown := some s.fb }

end Sys2Proof.Machine
end

