-- ==== Sys2Proof/Machine/Flags.lean ====
section
/-! DEFINITION. The values VF takes (10_state.md R22, 42_register_alu.md R132) and the order of the result and
the flag write (R133). -/

namespace Sys2Proof.Machine

/-- VF is V[15] (R15, R22). -/
def vf : Nibble := 0xF

/-- A flag as the byte 1 or 0. -/
def flagByte (b : Bool) : Byte := if b then 0x01 else 0x00

/-- ADD: 1 if the exact sum exceeds 255 (R126). -/
def carryFlag (a b : Byte) : Byte := flagByte (decide (255 < a.toNat + b.toNat))

/-- SUB and SUBN: 1 if the minuend is strictly greater (R127, R129). -/
def greaterFlag (a b : Byte) : Byte := flagByte (decide (b.toNat < a.toNat))

/-- SHR: bit 0 before the shift (R128). -/
def lowBitFlag (a : Byte) : Byte := flagByte (a.getLsbD 0)

/-- SHL: bit 7 before the shift (R130). -/
def highBitFlag (a : Byte) : Byte := flagByte (a.getLsbD 7)

/-- The two writes in the order FLAG_LAST selects (R13, R133). -/
def State.writeResultAndFlag (s : State) (x : Nibble) (res flag : Byte) : State :=
  if s.cfg.flagLast then (s.writeV x res).writeV vf flag else (s.writeV vf flag).writeV x res

end Sys2Proof.Machine
end

