-- ==== Sys2Proof/Machine/IndexMemory.lean ====
section
/-! DEFINITION. The index register and memory transfer (43_index_memory.md R150 to R156). Every address is
checked before the first write (20_memory.md R69), and I never changes by an access. -/

namespace Sys2Proof.Machine

/-- Check I to I + n - 1 for the instruction `ins`; AddressError at the first bad address, else go on (R69). -/
def State.checked (s : State) (n : Nat) (ins : Instr) (t : State) : Result :=
  match s.badIndexAddr n with
  | some a => s.raise .addressError ins (some a)
  | none => .next t

/-- LD I, nnn (R150). -/
def execLdI (nnn : Addr12) (s : State) : Result := .next (s.writeI (zext16 nnn)).advance

/-- ADD I, Vx: mod 65536, no flag (R151). -/
def execAddI (x : Nibble) (s : State) : Result := .next (s.writeI (u16 (s.i.toNat + (s.readV x).toNat))).advance

/-- LD F, Vx: I <- V[x] * 5, V[x] not masked (R152). -/
def execLdF (x : Nibble) (s : State) : Result :=
  .next (s.writeI (u16 ((s.readV x).toNat * Config.glyphBytes))).advance

/-- LD B, Vx: the three decimal digits at I (R153). -/
def execLdB (x : Nibble) (s : State) : Result :=
  s.checked 3 (.ldB x) (s.storeBytes (s.indexAddr 0) (bcdDigits (s.readV x))).advance

/-- LD [I], Vx: V0 to V[x] at I (R154). -/
def execLdMemVx (x : Nibble) (s : State) : Result :=
  s.checked (x.toNat + 1) (.ldMemVx x) (s.storeBytes (s.indexAddr 0) (s.regsUpTo x)).advance

/-- LD Vx, [I]: V0 to V[x] from I (R155). -/
def execLdVxMem (x : Nibble) (s : State) : Result :=
  s.checked (x.toNat + 1) (.ldVxMem x) (s.loadRegs x).advance

end Sys2Proof.Machine
end

