-- ==== Sys2Proof/Machine/DisplayInstr.lean ====
section
/-! DEFINITION. CLS and DRW (44_display.md R177, R178). -/

namespace Sys2Proof.Machine

/-- CLS: clear(), VF unchanged (R177). -/
def execCls (s : State) : Result := .next (s.setFb clearFrame).advance

/-- The draw of DRW: coordinates and sprite are read before VF is written (R178). -/
def State.drawSprite (s : State) (x y n : Nibble) : Frame × Bool :=
  draw s.cfg.drawWrap s.fb (s.readV x).toNat (s.readV y).toNat (s.indexBytes n.toNat)

/-- DRW Vx, Vy, n: VF = the collision result (R178). -/
def execDrw (x y n : Nibble) (s : State) : Result :=
  s.checked n.toNat (.drw x y n)
    ((s.setFb (s.drawSprite x y n).1).writeV vf (flagByte (s.drawSprite x y n).2)).advance

end Sys2Proof.Machine
end

