-- ==== Sys2Proof/Machine/Keys.lean ====
section
/-! DEFINITION. The key_debounce_state_machine (45_keys_timers.md R190 to R196) and the timers' tick
(60_exceptions.md R230). -/

namespace Sys2Proof.Machine

/-- cnt[k] (R40). -/
def State.counter (s : State) : Key → Option Nat
  | .hex k => s.hexKeys[k.toNat]'k.isLt
  | .exit => s.exitKey

/-- is_pressed(k): the counter is present (R41, R191). -/
def State.isPressed (s : State) (k : Key) : Bool := (s.counter k).isSome

/-- KeyPressed(v) for a register value: no key has a number above 0x0F (R191). -/
def State.keyPressed (s : State) (b : Byte) : Bool :=
  decide (b.toNat ≤ 0x0F) && s.isPressed (.hex (b.setWidth 4))

/-- cnt[k] <- KEY_DURATION (R190). -/
def State.startCounter (s : State) : Key → State
  | .hex k => { s with hexKeys := s.hexKeys.set k.toNat (some keyDuration) k.isLt }
  | .exit => { s with exitKey := some keyDuration }

/-- wait <- w. -/
def State.setWait (s : State) (w : Wait) : State := { s with wait := w }

/-- deliver(k): only a hex key, only to a waiting subscriber (R193). -/
def State.deliver (s : State) : Key → State
  | .hex k => if s.wait = .waiting then s.setWait (.delivered k) else s
  | .exit => s

/-- register_press(k), called by the host (R190). -/
def State.registerPress (s : State) (k : Key) : State := (s.startCounter k).deliver k

/-- One counter through a frame tick: one less, and absent when it reaches 0 (R190). -/
def ageCounter : Option Nat → Option Nat
  | none => none
  | some c => if c - 1 = 0 then none else some (c - 1)

/-- tick() of the key state (R190). -/
def State.keyTick (s : State) : State :=
  { s with hexKeys := s.hexKeys.map ageCounter, exitKey := ageCounter s.exitKey }

/-- The 16 hex keys by rising number. -/
def hexKeyNumbers : List Nibble := (List.range 16).map (BitVec.ofNat 4)

/-- The set of pressed hex keys; EXIT is not in it (R192). -/
def State.pressedHexKeys (s : State) : List Nibble := hexKeyNumbers.filter fun k => s.isPressed (.hex k)

/-- pressed_button() and the state after: none, the one pressed key, or a free choice among several, which
counts as a draw (R192; assumption log 12). -/
def State.pressedButton (s : State) : Option Nibble × State :=
  match s.pressedHexKeys with
  | [] => (none, s)
  | [k] => (some k, s)
  | k :: ks => (some ((k :: ks)[Config.keyChoice s.draws % (k :: ks).length]'(Nat.mod_lt _ (Nat.succ_pos _))), s.nextDraw)

/-- wait_key() and the state after (R195). -/
def State.waitKey (s : State) : Option Nibble × State :=
  match s.wait with
  | .delivered k => (some k, s.setWait .none)
  | .none => (none, s.setWait .waiting)
  | .waiting => (none, s)

/-- DT <- v (R201). -/
def State.setDt (s : State) (b : Byte) : State := { s with dt := b }

/-- ST <- v (R202). -/
def State.setSt (s : State) (b : Byte) : State := { s with st := b }

/-- A timer is one less, and stays at 0 (R230). -/
def countDown (b : Byte) : Byte := if b = 0 then 0 else b - 1

/-- timers.tick(), only when TIMERS = Present (R223, R230). -/
def State.timersTick (s : State) : State :=
  match s.cfg.timers with
  | .absent => s
  | .present => (s.setDt (countDown s.dt)).setSt (countDown s.st)

end Sys2Proof.Machine
end

