-- ==== Sys2Proof/Machine/KeyInstr.lean ====
section
/-! DEFINITION. The instructions that read keys or reach the timers (45_keys_timers.md R197 to R202). -/

namespace Sys2Proof.Machine

/-- SKP Vx (R197). -/
def execSkp (x : Nibble) (s : State) : Result := .next (s.skipIf (s.keyPressed (s.readV x)))

/-- SKNP Vx (R198). -/
def execSknp (x : Nibble) (s : State) : Result := .next (s.skipIf (!s.keyPressed (s.readV x)))

/-- The key operation of Fx0A that FX0A_MODE selects (R11, R199). -/
def State.takeKey (s : State) : Option Nibble × State :=
  match s.cfg.fx0aMode with
  | .pressedButton => s.pressedButton
  | .nextPress => s.waitKey

/-- LD Vx, K: without a key pc stays, and the next tick runs the same instruction again (R199). -/
def execLdVxK (x : Nibble) (s : State) : Result :=
  match s.takeKey with
  | (none, t) => .next t
  | (some k, t) => .next (t.writeV x (k.setWidth 8)).advance

/-- LD Vx, DT: a no-op but for pc when TIMERS = Absent (R200). -/
def execLdVxDt (x : Nibble) (s : State) : Result :=
  match s.cfg.timers with
  | .absent => .next s.advance
  | .present => .next (s.writeV x s.dt).advance

/-- LD DT, Vx: a no-op but for pc when TIMERS = Absent (R201). -/
def execLdDtVx (x : Nibble) (s : State) : Result :=
  match s.cfg.timers with
  | .absent => .next s.advance
  | .present => .next (s.setDt (s.readV x)).advance

/-- LD ST, Vx: a no-op but for pc when TIMERS = Absent (R202). -/
def execLdStVx (x : Nibble) (s : State) : Result :=
  match s.cfg.timers with
  | .absent => .next s.advance
  | .present => .next (s.setSt (s.readV x)).advance

end Sys2Proof.Machine
end

