-- ==== Sys2Proof/Machine/RegisterAlu.lean ====
section
/-! DEFINITION. Register loads, the ALU and the random byte (42_register_alu.md R120 to R133). Arithmetic is
exact on naturals and narrowed once (R14, R132). -/

namespace Sys2Proof.Machine

/-- V[x] <- b, pc <- pc + 2, no flag: the shape of R120 to R125 and R131. -/
def State.loadV (s : State) (x : Nibble) (b : Byte) : Result := .next (s.writeV x b).advance

/-- The result and the flag, then pc <- pc + 2: the shape of R126 to R130. -/
def State.aluFlag (s : State) (x : Nibble) (res flag : Byte) : Result :=
  .next (s.writeResultAndFlag x res flag).advance

/-- LD Vx, nn (R120). -/
def execLdImm (x : Nibble) (nn : Byte) (s : State) : Result := s.loadV x nn

/-- ADD Vx, nn: mod 256, no flag (R121). -/
def execAddImm (x : Nibble) (nn : Byte) (s : State) : Result := s.loadV x (u8 ((s.readV x).toNat + nn.toNat))

/-- LD Vx, Vy (R122). -/
def execLdReg (x y : Nibble) (s : State) : Result := s.loadV x (s.readV y)

/-- OR Vx, Vy (R123). -/
def execOr (x y : Nibble) (s : State) : Result := s.loadV x (s.readV x ||| s.readV y)

/-- AND Vx, Vy (R124). -/
def execAnd (x y : Nibble) (s : State) : Result := s.loadV x (s.readV x &&& s.readV y)

/-- XOR Vx, Vy (R125). -/
def execXor (x y : Nibble) (s : State) : Result := s.loadV x (s.readV x ^^^ s.readV y)

/-- (a - b) mod 256, as u8(a - b + 256) (R127). -/
def subBytes (a b : Byte) : Byte := u8 (a.toNat + 256 - b.toNat)

/-- ADD Vx, Vy: VF = carry (R126). -/
def execAddReg (x y : Nibble) (s : State) : Result :=
  s.aluFlag x (u8 ((s.readV x).toNat + (s.readV y).toNat)) (carryFlag (s.readV x) (s.readV y))

/-- SUB Vx, Vy: VF = 1 if V[x] > V[y] (R127). -/
def execSub (x y : Nibble) (s : State) : Result :=
  s.aluFlag x (subBytes (s.readV x) (s.readV y)) (greaterFlag (s.readV x) (s.readV y))

/-- SHR Vx: V[x] div 2, VF = bit 0; y is not read (R83, R128). -/
def execShr (x _y : Nibble) (s : State) : Result := s.aluFlag x (u8 ((s.readV x).toNat / 2)) (lowBitFlag (s.readV x))

/-- SUBN Vx, Vy: V[y] minus V[x], VF = 1 if V[y] > V[x] (R129). -/
def execSubn (x y : Nibble) (s : State) : Result :=
  s.aluFlag x (subBytes (s.readV y) (s.readV x)) (greaterFlag (s.readV y) (s.readV x))

/-- SHL Vx: V[x] * 2 mod 256, VF = bit 7; y is not read (R83, R130). -/
def execShl (x _y : Nibble) (s : State) : Result := s.aluFlag x (u8 ((s.readV x).toNat * 2)) (highBitFlag (s.readV x))

/-- RND Vx, nn: a free draw, ANDed with nn (R131; assumption log 11). -/
def execRnd (x : Nibble) (nn : Byte) (s : State) : Result :=
  s.nextDraw.loadV x (Config.randomByte s.draws &&& nn)

end Sys2Proof.Machine
end

