-- ==== Sys2Proof/Machine/Scheduler.lean ====
section
/-! DEFINITION. The instruction_scheduler_fsm and the frame_sync_timer (60_exceptions.md R220 to R231): what
one transition of the machine does. -/

namespace Sys2Proof.Machine

/-- The event the machine takes next: the oldest one still to come, else the reference schedule's next instruction
tick (R227, R228; assumption log 9, 10). -/
def State.nextEvent (s : State) : Event :=
  match s.inputs with
  | e :: _ => e
  | [] => .instrTick []

/-- The exit check: EXIT pressed after a step that did not fault ends the run (R216, R222). -/
def State.exitCheck (s : State) : State :=
  if s.run = .running ∧ s.isPressed .exit then { s with run := .stoppedExit } else s

/-- The step of R94 after its fetch: decode and execute, or DecodeError. -/
def State.runWord (s : State) (b0 b1 : Byte) : Result :=
  match decode (joinBytes b0 b1) with
  | .error _ => .next (s.stopFault (s.faultRecord .decodeError (some b0) (some b1) none))
  | .ok ins => exec ins s

/-- `step()` of R94: fetch, decode, execute. -/
def State.runInstr (s : State) : Result :=
  match s.fetch with
  | .error r => .next (s.stopFault r)
  | .ok (b0, b1) => s.runWord b0 b1

/-- The presses the host makes between a step and its exit check (45_keys_timers.md R196); after a step that faulted
the run has stopped and no press matters (R224; assumption log 21). -/
def State.pressBetween (s : State) (ks : List Key) : State :=
  if s.run = .running then ks.foldl State.registerPress s else s

/-- instr_tick while Running: one step, the presses that fall after it, then the exit check (R221; 45_keys_timers.md
R196). -/
def State.instrTick (s : State) (ks : List Key) : Result :=
  match s.runInstr with
  | .next t => .next (t.pressBetween ks).exitCheck
  | .fault r => .fault r
  | .refused r => .refused r

/-- frame_tick while Running: flush, key tick, timer tick (R223). -/
def State.frameTick (s : State) : State := s.flush.keyTick.timersTick

/-- One event while Running (R220). -/
def State.handle (s : State) : Event → Result
  | .instrTick ks => s.instrTick ks
  | .frameTick => .next s.frameTick
  | .registerPress k => .next (s.registerPress k)

/-- The events still to come become `es`. -/
def State.setInputs (s : State) (es : List Event) : State := { s with inputs := es }

/-- div <- div + 1 (R228). -/
def State.incrDiv (s : State) : State := { s with div := s.div + 1 }

/-- When div reaches 9 the frame_sync_timer issues the frame tick, the next event, and div <- 0 (R228). -/
def State.issueFrame (s : State) : State := { s with div := 0, inputs := .frameTick :: s.inputs }

/-- What an instruction tick of the reference schedule does to the frame_sync_timer, while the run goes on (R228,
R229; assumption log 10). -/
def State.countTick (s : State) : State :=
  if s.run = .running then
    if s.div.val + 1 = Config.ticksPerFrame then s.issueFrame else s.incrDiv
  else s

/-- The next instruction tick of the reference schedule (R228). -/
def State.referenceTick (s : State) : Result :=
  match s.instrTick [] with
  | .next t => .next t.countTick
  | .fault r => .fault r
  | .refused r => .refused r

/-- One transition: a stopped machine stays as it is (R224); a running one takes the oldest event still to
come, or the next tick of the reference schedule (R225, R227, R228). -/
def State.transition (s : State) : Result :=
  match s.run with
  | .running =>
    match s.inputs with
    | e :: rest => (s.setInputs rest).handle e
    | [] => s.referenceTick
  | .stoppedExit => .next s
  | .stoppedFault => .next s

/-- The state whose next transition runs the instruction `w`: its bytes at pc (at 0x200 when no instruction
fits at pc), the run going, and an instruction tick as the next event. -/
def State.placeInstr (s : State) (w : Word) : State :=
  let target : Word := if s.pc.toNat + 1 < Config.memSize then s.pc else 0x0200
  let t := (s.storeBytes target.toNat [hiByte w, loByte w]).setPc target
  let u := match s.nextEvent with
    | .instrTick _ => t
    | .frameTick => t.setInputs (.instrTick [] :: s.inputs)
    | .registerPress _ => t.setInputs (.instrTick [] :: s.inputs)
  { u with run := .running }

end Sys2Proof.Machine
end

