-- ==== Sys2Proof/Machine/Step.lean ====
section
/-! DEFINITION. The step function, one transition of the machine (60_exceptions.md R220, R225), and how the
host places one instruction to be run next. -/

namespace Sys2Proof.Machine

/-- One transition of the machine. -/
def step (s : State) : Host.Outcome State Fault Refusal := s.transition

/-- `s` with the instruction whose bits are `w` placed so that the next step runs it (assumption log 19). -/
def State.withFetchWord (s : State) (nbits w : Nat) : State := s.placeInstr (tableWord nbits w)

end Sys2Proof.Machine
end

