-- ==== Sys2Proof/WellFormed.lean ====
section
/-! DEFINITION. Which terms are legal. Every field of `Instr` has exactly the width of its encoding field
(30_encoding.md R82), so `Instr.wellFormed` holds of every instruction; the check that can fail is the one
on a program image (70_reset_and_hazards.md R244). -/

namespace Sys2Proof

/-- The operand fields of an instruction as numbers, each with the width R82 gives it. -/
def Instr.fields : Instr → List (Nat × Nat)
  | .cls | .ret => []
  | .jp nnn | .call nnn | .ldI nnn => [(nnn.toNat, 12)]
  | .seImm x nn | .sneImm x nn | .ldImm x nn | .addImm x nn | .rnd x nn => [(x.toNat, 4), (nn.toNat, 8)]
  | .seReg x y | .ldReg x y | .orReg x y | .andReg x y | .xorReg x y | .addReg x y | .sub x y | .shr x y
  | .subn x y | .shl x y | .sneReg x y => [(x.toNat, 4), (y.toNat, 4)]
  | .drw x y n => [(x.toNat, 4), (y.toNat, 4), (n.toNat, 4)]
  | .skp x | .sknp x | .ldVxDt x | .ldVxK x | .ldDtVx x | .ldStVx x | .addI x | .ldF x | .ldB x | .ldMemVx x
  | .ldVxMem x => [(x.toNat, 4)]

/-- Every operand fits its field (R82). -/
def Instr.wellFormed (i : Instr) : Bool := i.fields.all fun f => decide (f.1 < 2 ^ f.2)

/-- A program image fits between 0x200 and the end of memory: L <= 3584 (R244). -/
def imageWellFormed (image : List Byte) : Bool := decide (image.length ≤ Config.maxImage)

end Sys2Proof
end

