-- ==== Sys2Proof/Machine/Boot.lean ====
section
/-! DEFINITION. The launch of a run (70_reset_and_hazards.md R240, R244): what reset and the loader's copy of a program
image leave, for any setting of the parameters. -/

namespace Sys2Proof.Machine

/-- Memory before the first tick, in R240's order: every cell INIT_MEM, then FONT from FONT_BASE, then the image
from 0x200. -/
def bootMemory (fill : Byte) (glyphs : Vector Byte 80) (image : List Byte) : Memory :=
  ((Memory.writeBytes [] 0 (List.replicate Config.memSize fill)).writeBytes Config.fontBase glyphs.toList).writeBytes
    Config.programBase image

/-- The state a run starts from: the reset state with the parameters `cfg`, RESET_V, RESET_I, INIT_MEM and FONT and
the image at 0x200. An image of more than 3584 bytes is refused (R8, R9, R240, R244; assumption log 19). -/
def boot (cfg : Config.Params) (v : Vector Byte 16) (i : Word) (fill : Byte) (glyphs : Vector Byte 80)
    (image : List Byte) : Result :=
  if imageWellFormed image then
    .next { State.reset with cfg := cfg, v := v, i := i, mem := bootMemory fill glyphs image }
  else .refused (.imageTooLong image.length)

end Sys2Proof.Machine
end

