-- ==== Sys2Proof/Safety.lean ====
section
/-! DEFINITION. The terms claims use: which part of the state a step leaves alone, what each instruction may
write, the invariant of the machine, the illegal words, and the fairness of the two clocks. -/

namespace Sys2Proof.Machine

/-! ### Frames -/

/-- The parts of the state a frame speaks of. -/
inductive Part where
  | v
  | i
  | pc
  | stack
  | mem
  | fb
  | keys
  | wait
  | run
  | div
  | timers
  | cfg
  | draws
  | shown
  | inputs
  deriving DecidableEq, Repr

/-- The part reads the same in `t` as in `s`; memory through the read of one byte, the framebuffer through the
read of one pixel. `run` is the run state with the fault record, `stack` the pointer with the entries. -/
def SamePart (s t : State) : Part → Prop
  | .v => ∀ x, t.readV x = s.readV x
  | .i => t.i = s.i
  | .pc => t.pc = s.pc
  | .stack => t.sp = s.sp ∧ t.stack = s.stack
  | .mem => ∀ a, t.readByte a = s.readByte a
  | .fb => ∀ p, pixel t.fb p = pixel s.fb p
  | .keys => ∀ k, t.counter k = s.counter k
  | .wait => t.wait = s.wait
  | .run => t.run = s.run ∧ t.record = s.record
  | .div => t.div = s.div
  | .timers => t.dt = s.dt ∧ t.st = s.st
  | .cfg => t.cfg = s.cfg
  | .draws => t.draws = s.draws
  | .shown => t.shown = s.shown
  | .inputs => t.inputs = s.inputs

/-- Every part but the listed ones is unchanged. -/
def OnlyChanges (parts : List Part) (s t : State) : Prop := ∀ p, p ∉ parts → SamePart s t p

/-- Which parts an instruction may change: its destinations (10_state.md R21, R23, R25, R35, R37), pc (R29), and
`run` for an instruction that can raise a fatal condition (60_exceptions.md R210). -/
def mayChange : Instr → List Part
  | .cls => [.fb, .pc]
  | .ret | .call _ => [.stack, .pc, .run]
  | .jp _ | .seImm _ _ | .sneImm _ _ | .seReg _ _ | .sneReg _ _ | .skp _ | .sknp _ => [.pc]
  | .ldImm _ _ | .addImm _ _ | .ldReg _ _ | .orReg _ _ | .andReg _ _ | .xorReg _ _ | .addReg _ _ | .sub _ _
  | .shr _ _ | .subn _ _ | .shl _ _ | .ldVxDt _ => [.v, .pc]
  | .rnd _ _ => [.v, .pc, .draws]
  | .ldI _ | .addI _ | .ldF _ => [.i, .pc]
  | .drw _ _ _ => [.v, .fb, .pc, .run]
  | .ldVxK _ => [.v, .pc, .wait, .draws]
  | .ldDtVx _ | .ldStVx _ => [.timers, .pc]
  | .ldB _ | .ldMemVx _ => [.mem, .pc, .run]
  | .ldVxMem _ => [.v, .pc, .run]

/-- The registers an instruction writes, as R21's table lists them. -/
def writesReg : Instr → Nibble → Prop
  | .ldImm x _, r | .addImm x _, r | .ldReg x _, r | .orReg x _, r | .andReg x _, r | .xorReg x _, r
  | .rnd x _, r | .ldVxDt x, r | .ldVxK x, r => r = x
  | .addReg x _, r | .sub x _, r | .shr x _, r | .subn x _, r | .shl x _, r => r = x ∨ r = 0xF
  | .drw _ _ _, r => r = 0xF
  | .ldVxMem x, r => r.toNat ≤ x.toNat
  | .cls, _ | .ret, _ | .jp _, _ | .call _, _ | .seImm _ _, _ | .sneImm _ _, _ | .seReg _ _, _ | .sneReg _ _, _
  | .ldI _, _ | .skp _, _ | .sknp _, _ | .ldDtVx _, _ | .ldStVx _, _ | .addI _, _ | .ldF _, _ | .ldB _, _
  | .ldMemVx _, _ => False

/-- What 42_register_alu.md R133 leaves in the registers: the result in V[x] and the flag in VF, and when x = F
the one written last; no other register changes. -/
def ResultAndFlag (s t : State) (x : Nibble) (res flag : Byte) : Prop :=
  (x ≠ 0xF → t.readV x = res ∧ t.readV 0xF = flag) ∧
  (x = 0xF → t.readV 0xF = if s.cfg.flagLast then flag else res) ∧
  ∀ r, r ≠ x → r ≠ 0xF → t.readV r = s.readV r

/-- V[x] holds `b`, and no other register has changed. -/
def RegBecomes (s t : State) (x : Nibble) (b : Byte) : Prop :=
  t.readV x = b ∧ ∀ r, r ≠ x → t.readV r = s.readV r

/-- The run has stopped on the fatal condition: the record is the one 60_exceptions.md R214 gives, and nothing
else has changed (R215). -/
def StoppedOn (s t : State) (kind : FaultKind) (code : BitVec 8) (b0 b1 : Byte) (addr : Option (BitVec 17)) : Prop :=
  t.run = .stoppedFault ∧
  t.record = some { kind := kind, code := code, pc := s.pc, b0 := some b0, b1 := some b1, addr := addr } ∧
  OnlyChanges [.run] s t

/-! ### Keys -/

/-- The register value names a hex key that is pressed (45_keys_timers.md R191). -/
def KeyDown (s : State) (b : Byte) : Prop := ∃ k : Nibble, b.toNat = k.toNat ∧ s.counter (.hex k) ≠ none

/-- No key is available to Fx0A: no hex key is pressed, or none has been delivered (45_keys_timers.md R192, R195). -/
def NoKeyAvailable (s : State) : Prop :=
  match s.cfg.fx0aMode with
  | .pressedButton => ∀ k, s.counter (.hex k) = none
  | .nextPress => ∀ k, s.wait ≠ .delivered k

/-! ### The sprite of a draw -/

/-- Pixel `p` is under a 1 bit of the n-byte sprite at I drawn at (V[x], V[y]): some row dy and column dx of the
sprite has its bit set and R172's index of it is `p`. -/
def SpriteCovers (s : State) (x y n : Nibble) (p : Fin 2048) : Prop :=
  ∃ dy dx : Nat, dy < n.toNat ∧ dx < 8 ∧ (s.readByte (s.i.toNat + dy)).getLsbD (7 - dx) = true ∧
    p.val = match s.cfg.drawWrap with
      | .linear => (((s.readV y).toNat + dy) * 64 + ((s.readV x).toNat + dx)) % 2048
      | .toroidal => (((s.readV y).toNat + dy) % 32) * 64 + ((s.readV x).toNat + dx) % 64

/-! ### Illegal words -/

/-- The words 30_encoding.md R90 lists as illegal. -/
def IllegalWord (w : Word) : Prop :=
  (opOf w = 0x0 ∧ w ≠ 0x00E0 ∧ w ≠ 0x00EE) ∨
  ((opOf w = 0x5 ∨ opOf w = 0x9) ∧ nOf w ≠ 0x0) ∨
  (opOf w = 0x8 ∧ nOf w ∈ [0x8#4, 0x9#4, 0xA#4, 0xB#4, 0xC#4, 0xD#4, 0xF#4]) ∨
  opOf w = 0xB ∨
  (opOf w = 0xE ∧ nnOf w ∉ [0x9E#8, 0xA1#8]) ∨
  (opOf w = 0xF ∧ nnOf w ∉ [0x07#8, 0x0A#8, 0x15#8, 0x18#8, 0x1E#8, 0x29#8, 0x33#8, 0x55#8, 0x65#8])

/-! ### The invariant -/

/-- A present counter is 1 to KEY_DURATION (10_state.md R40). -/
def CounterLegal (c : Option Nat) : Prop := ∀ n, c = some n → 1 ≤ n ∧ n ≤ keyDuration

/-- The record belongs to the instruction at pc, its code is its kind's, and it has an address exactly for an
AddressError (60_exceptions.md R210, R214, R215). -/
def RecordLegal (pc : Word) (r : FaultRecord) : Prop :=
  r.pc = pc ∧ r.code = r.kind.code ∧ (r.addr.isSome = true ↔ r.kind = .addressError)

/-- What holds in every state a run reaches: memory is in its canonical form, pc is at most 0x1002 (10_state.md
R31), a stack entry in use is at most 0x1000 (41_control_flow.md R102), the key counters are legal, and there is
a fault record exactly when the run stopped on a fault (R47). -/
structure LegalState (s : State) : Prop where
  mem_canonical : s.mem.wf = true
  pc_bound : s.pc.toNat ≤ 0x1002
  stack_bound : ∀ k : Fin 16, k.val < s.sp.val → (s.stack[k]).toNat ≤ 0x1000
  keys_legal : ∀ k, CounterLegal (s.counter k)
  record_iff : s.record.isSome = true ↔ s.run = .stoppedFault
  record_legal : ∀ r, s.record = some r → RecordLegal s.pc r

/-! ### The end of a run, and the two clocks -/

/-- A run has ended: it stopped on the exit key or on a fault (60_exceptions.md R226). -/
def Ended (s : State) : Prop := s.run ≠ .running

/-- A run has ended without a fault, the only end a claim may read as a final state (R226). -/
def EndedNormally (s : State) : Prop := s.run = .stoppedExit

/-- `r` is a run under the events `e`: the n-th transition handles the n-th event (R225, R227). -/
def RunUnder (e : Nat → Event) (r : Nat → State) : Prop :=
  ∀ n, (r n).run = .running → (r n).handle (e n) = .next (r (n + 1))

/-- Neither clock stops while the other runs (R231): the premise of a claim that needs ticks to go on. -/
def FairSchedule (e : Nat → Event) : Prop :=
  (∀ n, ∃ m ks, n ≤ m ∧ e m = .instrTick ks) ∧ ∀ n, ∃ m, n ≤ m ∧ e m = .frameTick

/-- The event registers a press of the key (45_keys_timers.md R190, R196). -/
def Presses : Event → Key → Prop
  | .instrTick ks, k => k ∈ ks
  | .frameTick, _ => False
  | .registerPress j, k => j = k

end Sys2Proof.Machine
end

