-- ==== Sys2Proof/Certificates/Slice0/Obligations.lean ====
section
/-! DEFINITION. The statements for the provers, each from the rules of spec/ its docstring names. Numbers, register
numbers and bytes are written out here as the spec writes them, not taken from the meanings. -/

open Sys2Proof Sys2Proof.Machine

/-! ### Reset and launch -/

/-- 10_state.md R28, R36, R39, R45, R49, R53: what reset leaves where the spec gives the value. The clear framebuffer,
the keys and div are the spec's own decisions D12, D13 and D25; DT = ST = 0 is general knowledge there (D14,
assumption log 14). The values the model names itself (log 1 to 5) are not in it. -/
def Obligations.ResetLeavesTheStatedValues : Prop :=
  State.reset.pc = 0x0200 ∧ State.reset.sp.val = 0 ∧ State.reset.run = .running ∧ State.reset.record = none ∧
  State.reset.wait = .none ∧ (∀ k, State.reset.counter k = none) ∧ (∀ p, pixel State.reset.fb p = false) ∧
  State.reset.div.val = 0 ∧ State.reset.dt = 0 ∧ State.reset.st = 0

/-- 70_reset_and_hazards.md R240, R241, R244, 00_scope.md R8, R9: for every setting of the parameters, RESET_V, RESET_I,
INIT_MEM and FONT, an image of at most 3584 bytes stands at 0x200, FONT at 0x000 to 0x04F, every other cell holds
INIT_MEM, pc is 0x200, and everything else is as in the reset state; a longer image is refused. The order of loading and
the refusal are the spec's own decisions D10, D11 and D29 (assumption log 19). -/
def Obligations.LaunchPlacesTheImage : Prop :=
  ∀ (cfg : Config.Params) (v : Vector Byte 16) (i : Word) (fill : Byte) (glyphs : Vector Byte 80) (image : List Byte),
    (image.length ≤ 3584 → ∃ t, boot cfg v i fill glyphs image = .next t ∧
      t.cfg = cfg ∧ t.v = v ∧ t.i = i ∧ t.pc = 0x0200 ∧
      (∀ (k : Nat) (h : k < image.length), t.readByte (0x200 + k) = image[k]) ∧
      (∀ (k : Nat) (h : k < 80), t.readByte k = glyphs[k]) ∧
      (∀ a, (0x050 ≤ a ∧ a < 0x200) ∨ (0x200 + image.length ≤ a ∧ a < 0x1000) → t.readByte a = fill) ∧
      OnlyChanges [.v, .i, .mem, .cfg] State.reset t ∧ LegalState t) ∧
    (3584 < image.length → boot cfg v i fill glyphs image = .refused (.imageTooLong image.length))

/-! ### The invariant -/

/-- The invariant holds after reset (10_state.md R31, R40, R47; the canonical form of memory is the model's own). -/
def Obligations.ResetSatisfiesTheInvariant : Prop := LegalState State.reset

/-- From every state that meets the invariant, a step gives a state that meets it: memory canonical, pc at most
0x1002 (10_state.md R31), stack entries in use at most 0x1000 (41_control_flow.md R102), counters 1 to
KEY_DURATION (R40), and a fault record exactly when stopped on a fault (R47, R214). The canonical form is the model's
own; the bounds on pc and the stack are the spec's own inferences (D2, D3). -/
def Obligations.EveryStepKeepsTheInvariant : Prop := ∀ s t, LegalState s → step s = .next t → LegalState t

/-! ### Decode and encode -/

/-- Every instruction, with every operand at every value, is what its encoding decodes to, as a word and as the first
two bytes of any bytes (30_encoding.md R80 to R89). -/
def Obligations.DecodeOfEncodeIsTheInstruction : Prop :=
  ∀ i, i.wellFormed = true → decode (encode i) = .ok i ∧
    ∀ rest, decodeBytes (encodeBytes i ++ rest) = .ok (i, rest)

/-- A word that decodes is the encoding of what it decodes to: no bit of the word is lost (R83, R91;
the spec's own inference from its encodings). -/
def Obligations.EncodeOfDecodeIsTheWord : Prop := ∀ w i, decode w = .ok i → encode i = w

/-- 30_encoding.md R90: the words that decode to an error are exactly the listed ones (that 0nnn and Bnnn are among
them is the spec's own decision D24). -/
def Obligations.IllegalWordsAreTheListedOnes : Prop := ∀ w, (∃ e, decode w = .error e) ↔ IllegalWord w

/-- 30_encoding.md R91: a word that decodes is in its instruction's row of the opcode table and in no other row,
and a word in no row decodes to an error (R91 is the spec's own inference). -/
def Obligations.ExactlyOneRowSelectsALegalWord : Prop :=
  ∀ w, (∀ i, decode w = .ok i → i.row ∈ opcodeTable ∧ i.row.selects w = true ∧
      ∀ r ∈ opcodeTable, r.selects w = true → r = i.row) ∧
    ((∀ r ∈ opcodeTable, r.selects w = false) → ∃ e, decode w = .error e)

/-- Words written out from R84 to R89 (a sanity statement): at least one of each of the fifteen families that have an
instruction, and one of family B, which has none. -/
def Obligations.SampleWordsDecode : Prop :=
  decode 0x00E0 = .ok .cls ∧ decode 0x1234 = .ok (.jp 0x234) ∧ decode 0x2300 = .ok (.call 0x300) ∧
  decode 0x332A = .ok (.seImm 3 0x2A) ∧ decode 0x432A = .ok (.sneImm 3 0x2A) ∧ decode 0x5120 = .ok (.seReg 1 2) ∧
  decode 0x6A05 = .ok (.ldImm 0xA 5) ∧ decode 0x7020 = .ok (.addImm 0 0x20) ∧ decode 0x801E = .ok (.shl 0 1) ∧
  decode 0x9120 = .ok (.sneReg 1 2) ∧ decode 0xA20A = .ok (.ldI 0x20A) ∧ decode 0xC30F = .ok (.rnd 3 0x0F) ∧
  decode 0xD125 = .ok (.drw 1 2 5) ∧ decode 0xE2A1 = .ok (.sknp 2) ∧ decode 0xFA29 = .ok (.ldF 0xA) ∧
  decode 0xB123 = .error .familyB

/-! ### The step -/

/-- 30_encoding.md R94, 60_exceptions.md R221: when the next event is an instruction tick and the bytes at pc decode
to `i`, the step is `exec i`, with the event taken off the events to come, then the presses that fall after the step
(45_keys_timers.md R196), then the exit check, and then, in the reference schedule only, the count of the tick. The list
of events is the model's form (assumption log 9, 10, 21). -/
def Obligations.StepRunsTheDecodedInstruction : Prop :=
  ∀ (s : State) (ks : List Key) (i : Instr), s.run = .running → s.nextEvent = .instrTick ks → s.pc.toNat < 0xFFF →
    decode (joinBytes (s.readByte s.pc.toNat) (s.readByte (s.pc.toNat + 1))) = .ok i →
    step s = match exec i (s.setInputs s.inputs.tail) with
      | .next t => .next (if s.inputs = [] then (t.pressBetween ks).exitCheck.countTick
          else (t.pressBetween ks).exitCheck)
      | .fault r => .fault r
      | .refused r => .refused r

/-- 30_encoding.md R81: the fetch reads the bytes at pc and pc + 1, the word is b0 * 256 + b1; at pc >= 0x1000 it
raises AddressError(pc), at pc = 0xFFF AddressError(0x1000), and the run stops with the record of R214 (whose shape and
code are the spec's own decisions D3 and D4); of the events to come only the tick itself is taken off (assumption
log 9). -/
def Obligations.FetchReadsTwoBytesHighFirst : Prop :=
  ∀ s : State,
    (s.pc.toNat < 0xFFF → s.fetch = .ok (s.readByte s.pc.toNat, s.readByte (s.pc.toNat + 1))) ∧
    (∀ b0 b1, (joinBytes b0 b1).toNat = b0.toNat * 256 + b1.toNat) ∧
    (∀ ks, s.run = .running → s.nextEvent = .instrTick ks → 0x1000 ≤ s.pc.toNat →
      ∃ t, step s = .next t ∧ t.run = .stoppedFault ∧ OnlyChanges [.run, .inputs] s t ∧ t.inputs = s.inputs.tail ∧
        t.record = some
          { kind := .addressError, code := 4, pc := s.pc, b0 := none, b1 := none,
            addr := some (BitVec.ofNat 17 s.pc.toNat) }) ∧
    (∀ ks, s.run = .running → s.nextEvent = .instrTick ks → s.pc.toNat = 0xFFF →
      ∃ t, step s = .next t ∧ t.run = .stoppedFault ∧ OnlyChanges [.run, .inputs] s t ∧ t.inputs = s.inputs.tail ∧
        t.record = some
          { kind := .addressError, code := 4, pc := s.pc, b0 := some (s.readByte 0xFFF), b1 := none,
            addr := some 0x1000 })

/-- 60_exceptions.md R211: an illegal word ends the run with DecodeError, code 1, recording the address and the two
bytes; nothing else changes, but that the tick is taken off the events to come (the code is the spec's own decision D4,
the precision D5; the list of events is assumption log 9). -/
def Obligations.IllegalWordStopsTheRun : Prop :=
  ∀ (s : State) (ks : List Key), s.run = .running → s.nextEvent = .instrTick ks → s.pc.toNat < 0xFFF →
    IllegalWord (joinBytes (s.readByte s.pc.toNat) (s.readByte (s.pc.toNat + 1))) →
    ∃ t, step s = .next t ∧ t.run = .stoppedFault ∧ OnlyChanges [.run, .inputs] s t ∧ t.inputs = s.inputs.tail ∧
      t.record = some
        { kind := .decodeError, code := 1, pc := s.pc, b0 := some (s.readByte s.pc.toNat),
          b1 := some (s.readByte (s.pc.toNat + 1)), addr := none }

/-- 60_exceptions.md R216, R221, R222: an instruction tick makes the step of 30_encoding.md R94, which leaves some `w`.
Where the step raised a condition, `w` is stopped on the fault and is the state after the tick, whether EXIT is pressed or
not (the spec's own decision D35). Where it raised none, the exit check follows, with the step's full effect kept: the
run is stopped by the exit key exactly when EXIT was pressed before the step or is among the presses between the step and
the check (45_keys_timers.md R196, D32; that it may fall there is assumption log 21), and goes on when not. That a listed
tick is taken off the events to come and the later ones stay is assumption log 9; that it leaves div, which moves in the
reference schedule only, assumption log 10. -/
def Obligations.ExitKeyEndsTheRunAfterAStep : Prop :=
  ∀ (s : State) (ks : List Key), s.run = .running → s.nextEvent = .instrTick ks →
    ∃ w t, (s.setInputs s.inputs.tail).runInstr = .next w ∧ step s = .next t ∧
      ((w.run = .stoppedFault ∧ t = w) ∨
       (w.run = .running ∧ t.record = w.record ∧
        (t.run = if s.isPressed .exit = true ∨ Key.exit ∈ ks then .stoppedExit else .running) ∧
        OnlyChanges [.run, .keys, .wait, .div, .inputs] w t ∧
        (ks = [] → OnlyChanges [.run, .div, .inputs] w t) ∧
        (s.inputs ≠ [] → t.inputs = s.inputs.tail ∧ t.div = w.div)))

/-- 45_keys_timers.md R196, with R190 and R193: the presses the host makes between a step and its exit check are
registered, each as `register_press` says: every key among them is at KEY_DURATION = 1 and no other key is touched, and
a waiting subscriber gets the first hex key among them. The subscriber and the place of a press are the spec's own
decisions D15 and D32; that the tick carries the presses is the model's reading of R196 beside 60_exceptions.md R225
(assumption log 21). -/
def Obligations.PressesFallBetweenStepAndExitCheck : Prop :=
  ∀ (s : State) (ks : List Key) (w : State), s.run = .running → s.nextEvent = .instrTick ks →
    (s.setInputs s.inputs.tail).runInstr = .next w → w.run = .running →
    ∃ t, step s = .next t ∧ (∀ k, k ∈ ks → t.counter k = some 1) ∧ (∀ k, k ∉ ks → t.counter k = w.counter k) ∧
      (∀ before h later, ks = before ++ .hex h :: later → (∀ k ∈ before, k = .exit) → w.wait = .waiting →
        t.wait = .delivered h) ∧
      ((∀ k ∈ ks, k = .exit) ∨ w.wait ≠ .waiting → t.wait = w.wait) ∧
      OnlyChanges [.run, .keys, .wait, .div, .inputs] w t

/-- 60_exceptions.md R223, R230, 45_keys_timers.md R190: a frame tick hands the host the framebuffer, ages every
counter by one and removes it at zero, and counts DT and ST down when TIMERS = Present; the run goes on, the tick is taken
off the events to come and the later ones stay, and nothing else changes. The order of the three is the spec's own
decision D36, the timers' count general knowledge in it (D14, assumption log 14); the snapshot's field and the list of
events are the model's own (log 9, 13). -/
def Obligations.FrameTickFlushesAgesAndCountsDown : Prop :=
  ∀ s : State, s.run = .running → s.nextEvent = .frameTick →
    ∃ t, step s = .next t ∧ t.shown = some s.fb ∧
      (∀ k, s.counter k = none → t.counter k = none) ∧
      (∀ k c, s.counter k = some c → t.counter k = if c ≤ 1 then none else some (c - 1)) ∧
      (s.cfg.timers = .present → t.dt.toNat = s.dt.toNat - 1 ∧ t.st.toNat = s.st.toNat - 1) ∧
      (s.cfg.timers = .absent → t.dt = s.dt ∧ t.st = s.st) ∧ t.inputs = s.inputs.tail ∧
      OnlyChanges [.shown, .keys, .timers, .inputs] s t

/-- 45_keys_timers.md R190, R193: register_press starts the key's counter at KEY_DURATION = 1 and hands a hex key to a
waiting subscriber; the press is taken off the events to come and the later ones stay; nothing else changes (the
subscriber is the spec's own decision D15, the list of events assumption log 9). -/
def Obligations.RegisterPressStartsTheCounterAndDelivers : Prop :=
  ∀ (s : State) (k : Key), s.run = .running → s.nextEvent = .registerPress k →
    ∃ t, step s = .next t ∧ t.counter k = some 1 ∧ (∀ j, j ≠ k → t.counter j = s.counter j) ∧
      (∀ h, k = .hex h → s.wait = .waiting → t.wait = .delivered h) ∧
      (k = .exit ∨ s.wait ≠ .waiting → t.wait = s.wait) ∧ t.inputs = s.inputs.tail ∧
      OnlyChanges [.keys, .wait, .inputs] s t

/-- 60_exceptions.md R224: no event changes a stopped machine. -/
def Obligations.StoppedMachineNeverChanges : Prop := ∀ s : State, s.run ≠ .running → step s = .next s

/-- 60_exceptions.md R228: with no event to come the next event is an instruction tick; in a step that leaves the run
Running, div 0 to 7 is one more after it and still no event is to come, and div 8 reaches 9, so that the frame tick is
issued as the event to come and div is 0. The schedule and div's range 0 to 8 are the spec's own decision D25; that an
empty list of events stands for this schedule, and that div goes to 0 when the frame tick is issued, are the model's
(assumption log 10). -/
def Obligations.ReferenceScheduleIsNineToOne : Prop :=
  ∀ s t : State, s.run = .running → s.inputs = [] → step s = .next t → t.run = .running →
    s.nextEvent = .instrTick [] ∧
    (s.div.val < 8 → t.div.val = s.div.val + 1 ∧ t.inputs = []) ∧
    (s.div.val = 8 → t.div.val = 0 ∧ t.inputs = [.frameTick])

/-- 60_exceptions.md R210, R218, R224: the machine always goes to a next state; a fatal condition stops the run, it
does not leave the machine without a state (the model's reading, assumption log 7). -/
def Obligations.EveryStepAnswersANextState : Prop := ∀ s : State, ∃ t, step s = .next t

/-- 60_exceptions.md R215: a step that stops on a fault changes nothing but the run state and its record, whose pc is
the instruction's address (the spec's own decisions D4 and D5), and takes its tick, and no later event, off the events to
come (assumption log 9). -/
def Obligations.FaultingStepHasNoOtherEffect : Prop :=
  ∀ (s t : State) (ks : List Key), s.run = .running → s.nextEvent = .instrTick ks → step s = .next t →
    t.run = .stoppedFault →
    OnlyChanges [.run, .inputs] s t ∧ t.inputs = s.inputs.tail ∧ ∃ r, t.record = some r ∧ r.pc = s.pc

/-- 00_scope.md R10 to R13, 10_state.md R57: the parameters are configuration; no step changes them (that the state
carries them is the model's choice, assumption log 6). -/
def Obligations.NoStepChangesTheParameters : Prop := ∀ s t : State, step s = .next t → t.cfg = s.cfg

/-- 10_state.md R52, 60_exceptions.md R230: with TIMERS = Absent no step reaches DT or ST (that they are there to be
read is the model's choice, assumption log 15). -/
def Obligations.AbsentTimersNeverChange : Prop :=
  ∀ s t : State, s.cfg.timers = .absent → step s = .next t → t.dt = s.dt ∧ t.st = s.st

/-- 45_keys_timers.md R194, 60_exceptions.md R231: in a run that stays Running, under any fair interleaving of the two
clocks, a key the host no longer presses is released. Fairness is the spec's own decision D25 and a premise here
(assumption log 18). -/
def Obligations.UnpressedKeysAreReleasedUnderFairness : Prop :=
  ∀ (e : Nat → Event) (r : Nat → State), RunUnder e r → FairSchedule e → (∀ n, (r n).run = .running) →
    ∀ k n, (∀ m, n ≤ m → ¬ Presses (e m) k) → ∃ m, n ≤ m ∧ (r m).counter k = none

/-! ### Frames of all instructions -/

/-- 10_state.md R21, R23, R25, R29, R35, R37: every instruction changes only the parts of the state it may (R21 and R35
are the spec's own inferences; what RET leaves in the entries above sp is assumption log 5). -/
def Obligations.EveryInstructionKeepsItsFrame : Prop :=
  ∀ i s t, exec i s = .next t → OnlyChanges (mayChange i) s t

/-- 10_state.md R21, R22: every instruction leaves unchanged every register that R21's table does not list for it;
VF too, unless the instruction is a flag writer or names VF as its destination. The table is the spec's own inference;
VF's keeping its value is its decision D22. -/
def Obligations.RegistersAreWrittenAsListed : Prop :=
  ∀ i s t r, exec i s = .next t → ¬ writesReg i r → t.readV r = s.readV r

/-- 60_exceptions.md R229, R234, 44_display.md R175: no instruction reads the clocks' divider, the snapshot the host was
given or the events to come: with other values there it does the same. (Those three fields are the model's own form of
what the rules keep from programs, assumption log 9, 10, 13.) -/
def Obligations.InstructionsDoNotReadTheClocks : Prop :=
  ∀ (i : Instr) (s : State) (shown : Option Frame) (div : Fin 9) (inputs : List Event),
    exec i { s with shown := shown, div := div, inputs := inputs } = match exec i s with
      | .next t => .next { t with shown := shown, div := div, inputs := inputs }
      | .fault r => .fault r
      | .refused r => .refused r

/-- 10_state.md R29: how each instruction moves pc. Which key SKP and SKNP test is 45_keys_timers.md R191 (V[x] from 0x10
on names none: the spec's own decision D17), when Fx0A has a key R192 and R195 (the spec's own decision D15). -/
def Obligations.PcMovesAsListed : Prop :=
  ∀ i s, s.run = .running → ∃ t, exec i s = .next t ∧
    ((t.run = .stoppedFault ∧ t.pc = s.pc) ∨ (t.run = .running ∧ match i with
      | .jp nnn | .call nnn => t.pc.toNat = nnn.toNat
      | .ret => t.pc = s.stack[s.sp.val - 1]
      | .seImm x nn => t.pc = if s.readV x = nn then s.pc + 4 else s.pc + 2
      | .sneImm x nn => t.pc = if s.readV x ≠ nn then s.pc + 4 else s.pc + 2
      | .seReg x y => t.pc = if s.readV x = s.readV y then s.pc + 4 else s.pc + 2
      | .sneReg x y => t.pc = if s.readV x ≠ s.readV y then s.pc + 4 else s.pc + 2
      | .skp x => (KeyDown s (s.readV x) → t.pc = s.pc + 4) ∧ (¬ KeyDown s (s.readV x) → t.pc = s.pc + 2)
      | .sknp x => (KeyDown s (s.readV x) → t.pc = s.pc + 2) ∧ (¬ KeyDown s (s.readV x) → t.pc = s.pc + 4)
      | .ldVxK _ => (NoKeyAvailable s → t.pc = s.pc) ∧ (¬ NoKeyAvailable s → t.pc = s.pc + 2)
      | _ => t.pc = s.pc + 2))

/-! ### Control flow (41_control_flow.md) -/

/-- R101: JP nnn. -/
def Obligations.JumpSetsPc : Prop :=
  ∀ nnn s, decode (0x1#4 ++ nnn) = .ok (.jp nnn) ∧
    ∃ t, exec (.jp nnn) s = .next t ∧ t.pc.toNat = nnn.toNat ∧ OnlyChanges [.pc] s t

/-- R102, and push of 10_state.md R33: CALL nnn pushes pc + 2 and jumps; with sp = 16 it raises StackOverflow (that
pc + 2 is pushed is the spec's own decision D7, the record D4). -/
def Obligations.CallPushesTheNextAddressAndJumps : Prop :=
  ∀ nnn s, decode (0x2#4 ++ nnn) = .ok (.call nnn) ∧
    (∀ h : s.sp.val < 16, ∃ t, exec (.call nnn) s = .next t ∧ t.pc.toNat = nnn.toNat ∧ t.sp.val = s.sp.val + 1 ∧
      t.stack[s.sp.val] = s.pc + 2 ∧ (∀ (k : Nat) (hk : k < 16), k ≠ s.sp.val → t.stack[k] = s.stack[k]) ∧
      OnlyChanges [.stack, .pc] s t) ∧
    (s.sp.val = 16 → ∃ t, exec (.call nnn) s = .next t ∧
      StoppedOn s t .stackOverflow 2 (hiByte (0x2#4 ++ nnn)) (loByte (0x2#4 ++ nnn)) none)

/-- R100, and pop of 10_state.md R34: RET pops pc as it stands; with sp = 0 it raises StackUnderflow (that nothing is
added is the spec's own decision D7, the record D4; that the entries above sp stay is the model's, assumption log 5). -/
def Obligations.ReturnPopsPc : Prop :=
  ∀ s : State, decode 0x00EE = .ok .ret ∧
    (s.sp.val ≠ 0 → ∃ t, exec .ret s = .next t ∧ t.pc = s.stack[s.sp.val - 1] ∧ t.sp.val = s.sp.val - 1 ∧
      t.stack = s.stack ∧ OnlyChanges [.stack, .pc] s t) ∧
    (s.sp.val = 0 → ∃ t, exec .ret s = .next t ∧ StoppedOn s t .stackUnderflow 3 0x00 0xEE none)

/-- R100, R102: a RET in the state a CALL leaves resumes after the CALL with the stack as deep as before it; only the
entry CALL pushed has changed (that pc + 2 is pushed is the spec's own decision D7; that the entry stays is assumption
log 5). -/
def Obligations.ReturnResumesAfterTheCall : Prop :=
  ∀ nnn s, s.sp.val < 16 → ∃ t u, exec (.call nnn) s = .next t ∧ exec .ret t = .next u ∧
    u.pc = s.pc + 2 ∧ u.sp = s.sp ∧ (∀ (k : Nat) (hk : k < 16), k ≠ s.sp.val → u.stack[k] = s.stack[k]) ∧
    OnlyChanges [.pc, .stack] s u

/-- R103 to R106: the four comparisons skip by 4 when they hold and go on by 2 when not. -/
def Obligations.ComparisonsSkip : Prop :=
  (∀ x nn s, decode (0x3#4 ++ x ++ nn) = .ok (.seImm x nn) ∧ ∃ t, exec (.seImm x nn) s = .next t ∧
    (s.readV x = nn → t.pc = s.pc + 4) ∧ (s.readV x ≠ nn → t.pc = s.pc + 2) ∧ OnlyChanges [.pc] s t) ∧
  (∀ x nn s, decode (0x4#4 ++ x ++ nn) = .ok (.sneImm x nn) ∧ ∃ t, exec (.sneImm x nn) s = .next t ∧
    (s.readV x ≠ nn → t.pc = s.pc + 4) ∧ (s.readV x = nn → t.pc = s.pc + 2) ∧ OnlyChanges [.pc] s t) ∧
  (∀ x y s, decode (0x5#4 ++ x ++ y ++ 0x0#4) = .ok (.seReg x y) ∧ ∃ t, exec (.seReg x y) s = .next t ∧
    (s.readV x = s.readV y → t.pc = s.pc + 4) ∧ (s.readV x ≠ s.readV y → t.pc = s.pc + 2) ∧
    OnlyChanges [.pc] s t) ∧
  (∀ x y s, decode (0x9#4 ++ x ++ y ++ 0x0#4) = .ok (.sneReg x y) ∧ ∃ t, exec (.sneReg x y) s = .next t ∧
    (s.readV x ≠ s.readV y → t.pc = s.pc + 4) ∧ (s.readV x = s.readV y → t.pc = s.pc + 2) ∧
    OnlyChanges [.pc] s t)

/-! ### Register loads and ALU (42_register_alu.md) -/

/-- R120: LD Vx, nn. -/
def Obligations.LoadImmediate : Prop :=
  ∀ x nn s, decode (0x6#4 ++ x ++ nn) = .ok (.ldImm x nn) ∧ ∃ t, exec (.ldImm x nn) s = .next t ∧
    RegBecomes s t x nn ∧ t.pc = s.pc + 2 ∧ OnlyChanges [.v, .pc] s t

/-- R121: ADD Vx, nn, mod 256 and without a flag (VF's keeping its value is the spec's own decision D22). -/
def Obligations.AddImmediateWithoutFlag : Prop :=
  ∀ x nn s, decode (0x7#4 ++ x ++ nn) = .ok (.addImm x nn) ∧ ∃ t b, exec (.addImm x nn) s = .next t ∧
    b.toNat = ((s.readV x).toNat + nn.toNat) % 256 ∧ RegBecomes s t x b ∧ t.pc = s.pc + 2 ∧
    OnlyChanges [.v, .pc] s t

/-- R122: LD Vx, Vy. -/
def Obligations.CopyRegister : Prop :=
  ∀ x y s, decode (0x8#4 ++ x ++ y ++ 0x0#4) = .ok (.ldReg x y) ∧ ∃ t, exec (.ldReg x y) s = .next t ∧
    RegBecomes s t x (s.readV y) ∧ t.pc = s.pc + 2 ∧ OnlyChanges [.v, .pc] s t

/-- R123 to R125: OR, AND and XOR, bit by bit, leaving VF alone unless x = F (the spec's own decision D22). -/
def Obligations.BitwiseOperations : Prop :=
  ∀ x y s,
    (decode (0x8#4 ++ x ++ y ++ 0x1#4) = .ok (.orReg x y) ∧ ∃ t b, exec (.orReg x y) s = .next t ∧
      (∀ k, b.getLsbD k = ((s.readV x).getLsbD k || (s.readV y).getLsbD k)) ∧ RegBecomes s t x b ∧
      t.pc = s.pc + 2 ∧ OnlyChanges [.v, .pc] s t) ∧
    (decode (0x8#4 ++ x ++ y ++ 0x2#4) = .ok (.andReg x y) ∧ ∃ t b, exec (.andReg x y) s = .next t ∧
      (∀ k, b.getLsbD k = ((s.readV x).getLsbD k && (s.readV y).getLsbD k)) ∧ RegBecomes s t x b ∧
      t.pc = s.pc + 2 ∧ OnlyChanges [.v, .pc] s t) ∧
    (decode (0x8#4 ++ x ++ y ++ 0x3#4) = .ok (.xorReg x y) ∧ ∃ t b, exec (.xorReg x y) s = .next t ∧
      (∀ k, b.getLsbD k = ((s.readV x).getLsbD k ^^ (s.readV y).getLsbD k)) ∧ RegBecomes s t x b ∧
      t.pc = s.pc + 2 ∧ OnlyChanges [.v, .pc] s t)

/-- R126, R133: ADD Vx, Vy, the sum mod 256 and VF = 1 exactly when it exceeds 255. At x = F the one
FLAG_LAST writes last stays (the order is the spec's own decision D21). -/
def Obligations.AddSetsTheCarry : Prop :=
  ∀ x y s, decode (0x8#4 ++ x ++ y ++ 0x4#4) = .ok (.addReg x y) ∧ ∃ t res, exec (.addReg x y) s = .next t ∧
    res.toNat = ((s.readV x).toNat + (s.readV y).toNat) % 256 ∧
    ResultAndFlag s t x res (if 255 < (s.readV x).toNat + (s.readV y).toNat then 1 else 0) ∧
    t.pc = s.pc + 2 ∧ OnlyChanges [.v, .pc] s t

/-- R127, R133: SUB Vx, Vy, the difference mod 256 and VF = 1 exactly when V[x] > V[y]. At x = F the one FLAG_LAST
writes last stays (the order is the spec's own decision D21). -/
def Obligations.SubtractSetsTheStrictFlag : Prop :=
  ∀ x y s, decode (0x8#4 ++ x ++ y ++ 0x5#4) = .ok (.sub x y) ∧ ∃ t res, exec (.sub x y) s = .next t ∧
    (res.toNat : Int) = ((s.readV x).toNat - (s.readV y).toNat : Int) % 256 ∧
    ResultAndFlag s t x res (if (s.readV y).toNat < (s.readV x).toNat then 1 else 0) ∧
    t.pc = s.pc + 2 ∧ OnlyChanges [.v, .pc] s t

/-- R129, R133: SUBN Vx, Vy, V[y] minus V[x] mod 256 and VF = 1 exactly when V[y] > V[x]. At x = F the one FLAG_LAST
writes last stays (the order is the spec's own decision D21). -/
def Obligations.ReverseSubtractSetsTheStrictFlag : Prop :=
  ∀ x y s, decode (0x8#4 ++ x ++ y ++ 0x7#4) = .ok (.subn x y) ∧ ∃ t res, exec (.subn x y) s = .next t ∧
    (res.toNat : Int) = ((s.readV y).toNat - (s.readV x).toNat : Int) % 256 ∧
    ResultAndFlag s t x res (if (s.readV x).toNat < (s.readV y).toNat then 1 else 0) ∧
    t.pc = s.pc + 2 ∧ OnlyChanges [.v, .pc] s t

/-- R128, R130, R133: SHR and SHL of V[x] by one, VF = the bit shifted out; y is not read. At x = F the one FLAG_LAST
writes last stays (the order is the spec's own decision D21). -/
def Obligations.ShiftsCaptureTheBitShiftedOut : Prop :=
  ∀ x y s,
    (decode (0x8#4 ++ x ++ y ++ 0x6#4) = .ok (.shr x y) ∧ ∃ t res, exec (.shr x y) s = .next t ∧
      res.toNat = (s.readV x).toNat / 2 ∧
      ResultAndFlag s t x res (if (s.readV x).toNat % 2 = 1 then 1 else 0) ∧
      t.pc = s.pc + 2 ∧ OnlyChanges [.v, .pc] s t) ∧
    (decode (0x8#4 ++ x ++ y ++ 0xE#4) = .ok (.shl x y) ∧ ∃ t res, exec (.shl x y) s = .next t ∧
      res.toNat = (s.readV x).toNat * 2 % 256 ∧
      ResultAndFlag s t x res (if 128 ≤ (s.readV x).toNat then 1 else 0) ∧
      t.pc = s.pc + 2 ∧ OnlyChanges [.v, .pc] s t)

/-- R131: RND Vx, nn stores a draw ANDed with nn: some byte r with V[x] = r & nn, the draw the state's count of draws
names; every bit clear in nn is clear in the result. It holds whatever byte the draw is (the spec's own decision D33, assumption
log 11). -/
def Obligations.RandomByteIsMasked : Prop :=
  ∀ x nn s, decode (0xC#4 ++ x ++ nn) = .ok (.rnd x nn) ∧ ∃ t, exec (.rnd x nn) s = .next t ∧
    RegBecomes s t x (Config.randomByte s.draws &&& nn) ∧
    (∀ k, nn.getLsbD k = false → (t.readV x).getLsbD k = false) ∧
    t.draws = s.draws + 1 ∧ t.pc = s.pc + 2 ∧ OnlyChanges [.v, .pc, .draws] s t

/-! ### Index register and memory (43_index_memory.md) -/

/-- R150, R152: LD I, nnn; LD F, Vx as V[x] * 5, not masked. -/
def Obligations.IndexRegisterLoads : Prop :=
  (∀ nnn s, decode (0xA#4 ++ nnn) = .ok (.ldI nnn) ∧ ∃ t, exec (.ldI nnn) s = .next t ∧
    t.i.toNat = nnn.toNat ∧ t.pc = s.pc + 2 ∧ OnlyChanges [.i, .pc] s t) ∧
  (∀ x s, decode (0xF#4 ++ x ++ 0x29#8) = .ok (.ldF x) ∧ ∃ t, exec (.ldF x) s = .next t ∧
    t.i.toNat = (s.readV x).toNat * 5 ∧ t.pc = s.pc + 2 ∧ OnlyChanges [.i, .pc] s t)

/-- R151: ADD I, Vx mod 65536, without a flag (the spec's own decision D22). -/
def Obligations.AddToIndexRegister : Prop :=
  ∀ x s, decode (0xF#4 ++ x ++ 0x1E#8) = .ok (.addI x) ∧ ∃ t, exec (.addI x) s = .next t ∧
    t.i.toNat = (s.i.toNat + (s.readV x).toNat) % 65536 ∧ t.pc = s.pc + 2 ∧ OnlyChanges [.i, .pc] s t

/-- R153: LD B, Vx stores the hundreds, tens and ones of V[x] at I, I + 1, I + 2 and nowhere else; when I + 2 >= 0x1000
it raises AddressError at the first address that is out of range (the record is the spec's own decision D4). -/
def Obligations.StoreDecimalDigits : Prop :=
  ∀ x s, decode (0xF#4 ++ x ++ 0x33#8) = .ok (.ldB x) ∧
    (s.i.toNat + 2 < 0x1000 → ∃ t, exec (.ldB x) s = .next t ∧
      (t.readByte s.i.toNat).toNat = (s.readV x).toNat / 100 ∧
      (t.readByte (s.i.toNat + 1)).toNat = (s.readV x).toNat / 10 % 10 ∧
      (t.readByte (s.i.toNat + 2)).toNat = (s.readV x).toNat % 10 ∧
      (∀ a, a < s.i.toNat ∨ s.i.toNat + 2 < a → t.readByte a = s.readByte a) ∧
      t.pc = s.pc + 2 ∧ OnlyChanges [.mem, .pc] s t) ∧
    (0x1000 ≤ s.i.toNat + 2 → ∃ t, exec (.ldB x) s = .next t ∧
      StoppedOn s t .addressError 4 (0xF#4 ++ x) 0x33
        (some (BitVec.ofNat 17 (if 0x1000 ≤ s.i.toNat then s.i.toNat else 0x1000))))

/-- R154: LD [I], Vx stores V0 to V[x] at I to I + x and nowhere else; when I + x >= 0x1000 it raises AddressError at
the first address that is out of range. I's keeping its value is the spec's own decision D23, the record D4. -/
def Obligations.StoreRegisters : Prop :=
  ∀ x s, decode (0xF#4 ++ x ++ 0x55#8) = .ok (.ldMemVx x) ∧
    (s.i.toNat + x.toNat < 0x1000 → ∃ t, exec (.ldMemVx x) s = .next t ∧
      (∀ r : Nibble, r.toNat ≤ x.toNat → t.readByte (s.i.toNat + r.toNat) = s.readV r) ∧
      (∀ a, a < s.i.toNat ∨ s.i.toNat + x.toNat < a → t.readByte a = s.readByte a) ∧
      t.pc = s.pc + 2 ∧ OnlyChanges [.mem, .pc] s t) ∧
    (0x1000 ≤ s.i.toNat + x.toNat → ∃ t, exec (.ldMemVx x) s = .next t ∧
      StoppedOn s t .addressError 4 (0xF#4 ++ x) 0x55
        (some (BitVec.ofNat 17 (if 0x1000 ≤ s.i.toNat then s.i.toNat else 0x1000))))

/-- R155: LD Vx, [I] loads V0 to V[x] from I to I + x; when I + x >= 0x1000 it raises AddressError at the first address
that is out of range. I's keeping its value is the spec's own decision D23, the record D4. -/
def Obligations.LoadRegisters : Prop :=
  ∀ x s, decode (0xF#4 ++ x ++ 0x65#8) = .ok (.ldVxMem x) ∧
    (s.i.toNat + x.toNat < 0x1000 → ∃ t, exec (.ldVxMem x) s = .next t ∧
      (∀ r : Nibble, r.toNat ≤ x.toNat → t.readV r = s.readByte (s.i.toNat + r.toNat)) ∧
      (∀ r : Nibble, x.toNat < r.toNat → t.readV r = s.readV r) ∧
      t.pc = s.pc + 2 ∧ OnlyChanges [.v, .pc] s t) ∧
    (0x1000 ≤ s.i.toNat + x.toNat → ∃ t, exec (.ldVxMem x) s = .next t ∧
      StoppedOn s t .addressError 4 (0xF#4 ++ x) 0x65
        (some (BitVec.ofNat 17 (if 0x1000 ≤ s.i.toNat then s.i.toNat else 0x1000))))

/-- R154, R155, and 20_memory.md R70: whatever state has the memory and I that LD [I], Vx leaves, LD Vx, [I] in it
loads the registers that were stored. -/
def Obligations.LoadRestoresWhatWasStored : Prop :=
  ∀ x s, s.i.toNat + x.toNat < 0x1000 → ∃ t, exec (.ldMemVx x) s = .next t ∧
    ∀ u : State, u.mem = t.mem → u.i = s.i → ∃ w, exec (.ldVxMem x) u = .next w ∧
      ∀ r : Nibble, r.toNat ≤ x.toNat → w.readV r = s.readV r

/-- 20_memory.md R62, R72: bytes LD [I], Vx stores are what a later fetch there reads, the byte at pc as the high
byte (that there is no fetch buffer is the spec's own decision D27). -/
def Obligations.StoredBytesAreFetched : Prop :=
  ∀ x s, s.i.toNat + x.toNat < 0x1000 → ∃ t, exec (.ldMemVx x) s = .next t ∧
    ∀ (u : State) (k : Nat), u.mem = t.mem → k + 1 ≤ x.toNat → u.pc.toNat = s.i.toNat + k →
      u.fetch = .ok (s.readV (BitVec.ofNat 4 k), s.readV (BitVec.ofNat 4 (k + 1)))

/-- 20_memory.md R63, R64: the address decoder's regions (that 0x1000 and above raises is the spec's own decision D3). -/
def Obligations.AddressDecoderRegions : Prop :=
  ∀ a, (0x1000 ≤ a → decodeAddr a = none) ∧ (a ≤ 0x04F → decodeAddr a = some .font) ∧
    (0x050 ≤ a → a ≤ 0x1FF → decodeAddr a = some .low) ∧ (0x200 ≤ a → a ≤ 0xFFF → decodeAddr a = some .program)

/-! ### Display (44_display.md) -/

/-- R170, R177: CLS turns every pixel off and changes nothing else but pc. -/
def Obligations.ClearTurnsEveryPixelOff : Prop :=
  ∀ s, decode 0x00E0 = .ok .cls ∧ ∃ t, exec .cls s = .next t ∧ (∀ p, pixel t.fb p = false) ∧
    t.pc = s.pc + 2 ∧ OnlyChanges [.fb, .pc] s t

/-- R171 to R174, R178: DRW flips exactly the pixels under the sprite's 1 bits, sets VF to 1 exactly when one of them
was on before the draw, and changes no other register; when the sprite reaches 0x1000 it raises AddressError at the
first address that is out of range. The sequential draw is thereby the combinational one of R173. An n
of 0 is the spec's own decision D20, the record D4. -/
def Obligations.DrawFlipsTheCoveredPixels : Prop :=
  ∀ x y n s, decode (0xD#4 ++ x ++ y ++ n) = .ok (.drw x y n) ∧
    (n.toNat = 0 ∨ s.i.toNat + n.toNat - 1 < 0x1000 → ∃ t, exec (.drw x y n) s = .next t ∧
      (∀ p, SpriteCovers s x y n p → pixel t.fb p = !pixel s.fb p) ∧
      (∀ p, ¬ SpriteCovers s x y n p → pixel t.fb p = pixel s.fb p) ∧
      ((∃ p, SpriteCovers s x y n p ∧ pixel s.fb p = true) → t.readV 0xF = 1) ∧
      ((¬ ∃ p, SpriteCovers s x y n p ∧ pixel s.fb p = true) → t.readV 0xF = 0) ∧
      (∀ r, r ≠ 0xF → t.readV r = s.readV r) ∧ t.pc = s.pc + 2 ∧ OnlyChanges [.v, .fb, .pc] s t) ∧
    (n.toNat ≠ 0 → 0x1000 ≤ s.i.toNat + n.toNat - 1 → ∃ t, exec (.drw x y n) s = .next t ∧
      StoppedOn s t .addressError 4 (0xD#4 ++ x) (y ++ n)
        (some (BitVec.ofNat 17 (if 0x1000 ≤ s.i.toNat then s.i.toNat else 0x1000))))

/-- R176: the same draw twice gives back the framebuffer; on a clear framebuffer the first draw returns 0, and the
second returns 1 when the sprite has a 1 bit. (R176 (b) rests on the first draw's having turned the pixels on, so it
is stated for the clear framebuffer; assumption log 16. R176 is the spec's own inference.) -/
def Obligations.DrawingTwiceErases : Prop :=
  ∀ wrap fb x0 y0 sprite, sprite.length ≤ 15 →
    (draw wrap (draw wrap fb x0 y0 sprite).1 x0 y0 sprite).1 = fb ∧
    ((∀ p, pixel fb p = false) → (draw wrap fb x0 y0 sprite).2 = false ∧
      ((∃ b ∈ sprite, b ≠ 0) → (draw wrap (draw wrap fb x0 y0 sprite).1 x0 y0 sprite).2 = true))

/-! ### Keys and timers (45_keys_timers.md) -/

/-- R191, R197, R198: SKP and SKNP test the key whose number V[x] holds; 0x10 and above name no key (the
spec's own decision D17). -/
def Obligations.KeySkipsTestTheNamedKey : Prop :=
  ∀ x s,
    (decode (0xE#4 ++ x ++ 0x9E#8) = .ok (.skp x) ∧ ∃ t, exec (.skp x) s = .next t ∧
      (∀ k : Nibble, (s.readV x).toNat = k.toNat → s.counter (.hex k) ≠ none → t.pc = s.pc + 4) ∧
      (∀ k : Nibble, (s.readV x).toNat = k.toNat → s.counter (.hex k) = none → t.pc = s.pc + 2) ∧
      (0x10 ≤ (s.readV x).toNat → t.pc = s.pc + 2) ∧ OnlyChanges [.pc] s t) ∧
    (decode (0xE#4 ++ x ++ 0xA1#8) = .ok (.sknp x) ∧ ∃ t, exec (.sknp x) s = .next t ∧
      (∀ k : Nibble, (s.readV x).toNat = k.toNat → s.counter (.hex k) ≠ none → t.pc = s.pc + 2) ∧
      (∀ k : Nibble, (s.readV x).toNat = k.toNat → s.counter (.hex k) = none → t.pc = s.pc + 4) ∧
      (0x10 ≤ (s.readV x).toNat → t.pc = s.pc + 4) ∧ OnlyChanges [.pc] s t)

/-- R192, R195, R199: LD Vx, K in both modes. Without a key nothing changes, but for the subscription in NextPress
mode; with one, V[x] is the number of a pressed key (PressedButton) or the delivered key (NextPress). It holds
whichever pressed key the free choice takes (the spec's own decisions D15 and D16, assumption log 12). -/
def Obligations.WaitForKey : Prop :=
  ∀ x s, decode (0xF#4 ++ x ++ 0x0A#8) = .ok (.ldVxK x) ∧
    (s.cfg.fx0aMode = .pressedButton →
      ((∀ k, s.counter (.hex k) = none) → exec (.ldVxK x) s = .next s) ∧
      ((∃ k, s.counter (.hex k) ≠ none) → ∃ t b, exec (.ldVxK x) s = .next t ∧
        (∃ k : Nibble, s.counter (.hex k) ≠ none ∧ b.toNat = k.toNat) ∧ RegBecomes s t x b ∧ t.pc = s.pc + 2 ∧
        OnlyChanges [.v, .pc, .draws] s t)) ∧
    (s.cfg.fx0aMode = .nextPress →
      (s.wait = .none → ∃ t, exec (.ldVxK x) s = .next t ∧ t.wait = .waiting ∧ OnlyChanges [.wait] s t) ∧
      (s.wait = .waiting → exec (.ldVxK x) s = .next s) ∧
      (∀ k, s.wait = .delivered k → ∃ t b, exec (.ldVxK x) s = .next t ∧ t.wait = .none ∧ b.toNat = k.toNat ∧
        RegBecomes s t x b ∧ t.pc = s.pc + 2 ∧ OnlyChanges [.v, .pc, .wait] s t))

/-- R200 to R202: the timer instructions; no-ops but for pc when TIMERS = Absent. What they do when
TIMERS = Present is general knowledge in the spec (D14, assumption log 14). -/
def Obligations.TimerInstructions : Prop :=
  ∀ x s,
    decode (0xF#4 ++ x ++ 0x07#8) = .ok (.ldVxDt x) ∧ decode (0xF#4 ++ x ++ 0x15#8) = .ok (.ldDtVx x) ∧
    decode (0xF#4 ++ x ++ 0x18#8) = .ok (.ldStVx x) ∧
    (s.cfg.timers = .absent → ∀ i ∈ [Instr.ldVxDt x, .ldDtVx x, .ldStVx x],
      ∃ t, exec i s = .next t ∧ t.pc = s.pc + 2 ∧ OnlyChanges [.pc] s t) ∧
    (s.cfg.timers = .present →
      (∃ t, exec (.ldVxDt x) s = .next t ∧ RegBecomes s t x s.dt ∧ t.pc = s.pc + 2 ∧ OnlyChanges [.v, .pc] s t) ∧
      (∃ t, exec (.ldDtVx x) s = .next t ∧ t.dt = s.readV x ∧ t.st = s.st ∧ t.pc = s.pc + 2 ∧
        OnlyChanges [.timers, .pc] s t) ∧
      (∃ t, exec (.ldStVx x) s = .next t ∧ t.st = s.readV x ∧ t.dt = s.dt ∧ t.pc = s.pc + 2 ∧
        OnlyChanges [.timers, .pc] s t))
end

