-- ==== Sys2Proof/Laws/Memory.lean ====
section
/-! SUPPORT. Memory: a read after a write, the canonical form, and the address decoder. -/

namespace Sys2Proof.Machine

/-! ### The address decoder -/

theorem decodeAddr_eq_none (a : Nat) : decodeAddr a = none ↔ 0x1000 ≤ a := by
  unfold decodeAddr Config.memSize
  by_cases h : 0x1000 ≤ a
  · simp [h]
  · simp only [h, if_false, iff_false]
    split
    · simp
    · split <;> simp

theorem firstBadAddr_eq_none (a n : Nat) : firstBadAddr a n = none ↔ n = 0 ∨ a + n ≤ 0x1000 := by
  induction n generalizing a with
  | zero => simp [firstBadAddr]
  | succ n ih =>
    rw [firstBadAddr]
    split
    · next h => rw [decodeAddr_eq_none] at h; simp; omega
    · next h => rw [decodeAddr_eq_none] at h; rw [ih]; omega

/-- The first bad address: the start when it is already out of range, else 0x1000. -/
theorem firstBadAddr_eq_some (a n b : Nat) :
    firstBadAddr a n = some b ↔ n ≠ 0 ∧ 0x1000 < a + n ∧ b = max a 0x1000 := by
  induction n generalizing a with
  | zero => simp [firstBadAddr]
  | succ n ih =>
    rw [firstBadAddr]
    split
    · next h => rw [decodeAddr_eq_none] at h; simp; omega
    · next h => rw [decodeAddr_eq_none] at h; rw [ih]; omega

/-! ### Reads after writes -/

theorem read_erase_same (m : Memory) (a : Nat) : (m.erase a).read a = unlisted a := by
  induction m with
  | nil => rfl
  | cons e rest ih =>
    obtain ⟨b, v⟩ := e
    by_cases h : b = a <;> simp [Memory.erase, Memory.read, h, ih]

theorem read_erase_ne (m : Memory) {a c : Nat} (h : c ≠ a) : (m.erase a).read c = m.read c := by
  induction m with
  | nil => rfl
  | cons e rest ih =>
    obtain ⟨b, v⟩ := e
    by_cases hb : b = a
    · subst hb; simp [Memory.erase, Memory.read, ih, Ne.symm h]
    · simp [Memory.erase, Memory.read, hb, ih]

/-- An entry for `a` is nowhere in the list. -/
theorem read_insert_ne (m : Memory) {a c : Nat} (v : Byte) (h : c ≠ a) : (m.insert a v).read c = m.read c := by
  induction m with
  | nil => simp [Memory.insert, Memory.read, Ne.symm h]
  | cons e rest ih =>
    obtain ⟨b, w⟩ := e
    by_cases hb : a < b <;> simp [Memory.insert, Memory.read, hb, Ne.symm h, ih]

theorem read_insert_erase_same (m : Memory) (a : Nat) (v : Byte) : ((m.erase a).insert a v).read a = v := by
  induction m with
  | nil => simp [Memory.erase, Memory.insert, Memory.read]
  | cons e rest ih =>
    obtain ⟨b, w⟩ := e
    by_cases hb : b = a
    · simp [Memory.erase, hb, ih]
    · by_cases hlt : a < b <;> simp [Memory.erase, Memory.insert, Memory.read, hb, hlt, ih]

@[simp] theorem read_write_same (m : Memory) (a : Nat) (v : Byte) : (m.write a v).read a = v := by
  unfold Memory.write
  split
  · next h => rw [read_erase_same, h]
  · exact read_insert_erase_same m a v

@[simp] theorem read_write_ne (m : Memory) {a c : Nat} (v : Byte) (h : c ≠ a) : (m.write a v).read c = m.read c := by
  unfold Memory.write
  split
  · exact read_erase_ne m h
  · rw [read_insert_ne _ _ h, read_erase_ne m h]

/-- What a run of writes leaves: its bytes in their places, every other place as it was. -/
theorem read_writeBytes (m : Memory) (a : Nat) (bs : List Byte) (c : Nat) :
    (m.writeBytes a bs).read c = if a ≤ c then bs.getD (c - a) (m.read c) else m.read c := by
  induction bs generalizing m a with
  | nil => simp [Memory.writeBytes]
  | cons b bs ih =>
    rw [Memory.writeBytes, ih]
    by_cases h1 : a + 1 ≤ c
    · have h2 : a ≤ c := by omega
      have h3 : c - a = (c - (a + 1)) + 1 := by omega
      have h4 : c ≠ a := by omega
      simp only [h1, h2, if_true, h3, List.getD_cons_succ, read_write_ne m b h4]
    · by_cases h2 : c = a
      · subst h2; simp
      · have h3 : ¬ a ≤ c := by omega
        simp [h1, h3, read_write_ne m b h2]

theorem read_writeBytes_outside (m : Memory) (a : Nat) (bs : List Byte) (c : Nat)
    (h : c < a ∨ a + bs.length ≤ c) : (m.writeBytes a bs).read c = m.read c := by
  rw [read_writeBytes]
  split
  · rw [List.getD_eq_default]; omega
  · rfl

theorem read_writeBytes_inside (m : Memory) (a : Nat) (bs : List Byte) (k : Nat) (h : k < bs.length) :
    (m.writeBytes a bs).read (a + k) = bs[k] := by
  rw [read_writeBytes, if_pos (Nat.le_add_right a k), Nat.add_sub_cancel_left, List.getD_eq_getElem _ _ h]

/-- A run of reads is the list of its bytes. -/
theorem readBytes_eq_map (m : Memory) (a n : Nat) : m.readBytes a n = (List.range n).map fun k => m.read (a + k) := by
  induction n generalizing a with
  | zero => rfl
  | succ n ih =>
    rw [Memory.readBytes, ih, List.range_succ_eq_map, List.map_cons, List.map_map]
    simp only [Nat.add_zero, List.cons.injEq, true_and]
    exact List.map_congr_left fun k _ => by simp [Nat.add_left_comm, Nat.add_comm]

/-! ### The canonical form -/

theorem wfFrom_mono {lo lo' : Nat} (h : lo' ≤ lo) {m : Memory} (hm : m.wfFrom lo = true) : m.wfFrom lo' = true := by
  cases m with
  | nil => rfl
  | cons e rest =>
    obtain ⟨b, v⟩ := e
    simp only [Memory.wfFrom, Bool.and_eq_true, decide_eq_true_eq] at hm ⊢
    exact ⟨⟨⟨by omega, hm.1.1.2⟩, hm.1.2⟩, hm.2⟩

theorem wfFrom_erase {lo : Nat} {m : Memory} (hm : m.wfFrom lo = true) (a : Nat) : (m.erase a).wfFrom lo = true := by
  induction m generalizing lo with
  | nil => rfl
  | cons e rest ih =>
    obtain ⟨b, v⟩ := e
    simp only [Memory.wfFrom, Bool.and_eq_true, decide_eq_true_eq] at hm
    rw [Memory.erase]
    split
    · exact wfFrom_mono (by omega) (ih hm.2)
    · simp only [Memory.wfFrom, Bool.and_eq_true, decide_eq_true_eq]
      exact ⟨hm.1, ih hm.2⟩

theorem wfFrom_insert_erase {lo : Nat} {m : Memory} (hm : m.wfFrom lo = true) {a : Nat} {v : Byte} (hlo : lo ≤ a)
    (ha : a < Config.memSize) (hv : v ≠ unlisted a) : ((m.erase a).insert a v).wfFrom lo = true := by
  induction m generalizing lo with
  | nil => simp [Memory.erase, Memory.insert, Memory.wfFrom, hlo, ha, hv]
  | cons e rest ih =>
    obtain ⟨b, w⟩ := e
    simp only [Memory.wfFrom, Bool.and_eq_true, decide_eq_true_eq] at hm
    obtain ⟨⟨⟨h1, h2⟩, h3⟩, h4⟩ := hm
    rw [Memory.erase]
    split
    · next h => exact ih (wfFrom_mono (by omega) h4) hlo
    · next h =>
      rw [Memory.insert]
      split
      · next hlt =>
        simp only [Memory.wfFrom, Bool.and_eq_true, decide_eq_true_eq]
        exact ⟨⟨⟨hlo, ha⟩, hv⟩, ⟨⟨⟨hlt, h2⟩, h3⟩, wfFrom_erase h4 a⟩⟩
      · next hlt =>
        simp only [Memory.wfFrom, Bool.and_eq_true, decide_eq_true_eq]
        exact ⟨⟨⟨h1, h2⟩, h3⟩, ih h4 (by omega)⟩

/-- A write at an address that exists keeps the canonical form. -/
theorem wf_write {m : Memory} (hm : m.wf = true) {a : Nat} (ha : a < Config.memSize) (v : Byte) :
    (m.write a v).wf = true := by
  unfold Memory.write
  split
  · exact wfFrom_erase hm a
  · next h => exact wfFrom_insert_erase hm (Nat.zero_le a) ha h

/-- A run of writes inside the address space keeps the canonical form. -/
theorem wf_writeBytes {m : Memory} (hm : m.wf = true) {a : Nat} {bs : List Byte}
    (h : bs = [] ∨ a + bs.length ≤ Config.memSize) : (m.writeBytes a bs).wf = true := by
  induction bs generalizing m a with
  | nil => exact hm
  | cons b bs ih =>
    have h1 : a + (bs.length + 1) ≤ Config.memSize := by simpa using h
    rw [Memory.writeBytes]
    exact ih (wf_write hm (by omega) b) (.inr (by omega))

/-- Below the first listed address every byte is the unlisted one. -/
theorem read_of_lt {lo : Nat} {m : Memory} (hm : m.wfFrom lo = true) {a : Nat} (h : a < lo) : m.read a = unlisted a := by
  induction m generalizing lo with
  | nil => rfl
  | cons e rest ih =>
    obtain ⟨b, v⟩ := e
    simp only [Memory.wfFrom, Bool.and_eq_true, decide_eq_true_eq] at hm
    rw [Memory.read, if_neg (by omega)]
    exact ih hm.2 (by omega)

theorem mem_extFrom {lo : Nat} {m n : Memory} (hm : m.wfFrom lo = true) (hn : n.wfFrom lo = true)
    (h : ∀ a, m.read a = n.read a) : m = n := by
  induction m generalizing lo n with
  | nil =>
    cases n with
    | nil => rfl
    | cons e rest =>
      obtain ⟨b, v⟩ := e
      simp only [Memory.wfFrom, Bool.and_eq_true, decide_eq_true_eq] at hn
      have := h b
      rw [Memory.read, Memory.read, if_pos rfl] at this
      exact absurd this.symm hn.1.2
  | cons e rest ih =>
    obtain ⟨b, v⟩ := e
    have hm' := hm
    simp only [Memory.wfFrom, Bool.and_eq_true, decide_eq_true_eq] at hm'
    have hb := h b
    rw [Memory.read, if_pos rfl] at hb
    cases n with
    | nil => exact absurd hb hm'.1.2
    | cons f rest' =>
      obtain ⟨c, w⟩ := f
      have hn' := hn
      simp only [Memory.wfFrom, Bool.and_eq_true, decide_eq_true_eq] at hn'
      have hc := h c
      rw [Memory.read.eq_def ((c, w) :: rest')] at hc
      simp only [if_true] at hc
      rcases Nat.lt_trichotomy b c with hlt | heq | hgt
      · have hw : Memory.wfFrom c ((c, w) :: rest') = true := by
          simp only [Memory.wfFrom, Bool.and_eq_true, decide_eq_true_eq]
          exact ⟨⟨⟨Nat.le_refl c, hn'.1.1.2⟩, hn'.1.2⟩, hn'.2⟩
        rw [read_of_lt hw hlt] at hb
        exact absurd hb hm'.1.2
      · subst heq
        rw [Memory.read, if_pos rfl] at hb
        subst hb
        congr 1
        refine ih hm'.2 hn'.2 fun a => ?_
        by_cases ha : b = a
        · rw [read_of_lt hm'.2 (by omega), read_of_lt hn'.2 (by omega)]
        · have := h a
          rwa [Memory.read, Memory.read, if_neg ha, if_neg ha] at this
      · have hw : Memory.wfFrom b ((b, v) :: rest) = true := by
          simp only [Memory.wfFrom, Bool.and_eq_true, decide_eq_true_eq]
          exact ⟨⟨⟨Nat.le_refl b, hm'.1.1.2⟩, hm'.1.2⟩, hm'.2⟩
        rw [read_of_lt hw hgt] at hc
        exact absurd hc.symm hn'.1.2

/-- Memories in canonical form that read alike are the same list. -/
theorem mem_ext {m n : Memory} (hm : m.wf = true) (hn : n.wf = true) (h : ∀ a, m.read a = n.read a) : m = n :=
  mem_extFrom hm hn h

end Sys2Proof.Machine
end

