-- ==== Sys2Proof/Laws/Boot.lean ====
section
/-! SUPPORT. What a launch leaves in memory (70_reset_and_hazards.md R240), and that the reset state is the launch of
the empty image with the default parameters. -/

namespace Sys2Proof.Machine

/-- Every cell of memory that has been filled from 0x000 on. -/
theorem read_fill (n : Nat) (b : Byte) (a : Nat) :
    (Memory.writeBytes [] 0 (List.replicate n b)).read a = if a < n then b else unlisted a := by
  rw [read_writeBytes, if_pos (Nat.zero_le a), Nat.sub_zero]
  split
  · next h => rw [List.getD_eq_getElem _ _ (by rw [List.length_replicate]; exact h), List.getElem_replicate]
  · next h => rw [List.getD_eq_default _ _ (by rw [List.length_replicate]; omega), Memory.read]

/-- Every cell of a fresh memory: the image, then FONT, then INIT_MEM (R240). -/
theorem read_bootMemory (fill : Byte) (glyphs : Vector Byte 80) (image : List Byte) (a : Nat) :
    (bootMemory fill glyphs image).read a =
      if 0x200 ≤ a ∧ a < 0x200 + image.length then image.getD (a - 0x200) 0
      else if h : a < 80 then glyphs[a] else if a < 0x1000 then fill else unlisted a := by
  have hl : glyphs.toList.length = 80 := Vector.length_toList
  unfold bootMemory Config.programBase Config.fontBase Config.memSize
  rw [read_writeBytes, read_writeBytes, if_pos (Nat.zero_le a), Nat.sub_zero, read_fill]
  generalize (if a < 0x1000 then fill else unlisted a) = rest
  by_cases h1 : 0x200 ≤ a
  · rw [if_pos h1]
    by_cases h2 : a < 0x200 + image.length
    · rw [if_pos ⟨h1, h2⟩, List.getD_eq_getElem _ _ (by omega), List.getD_eq_getElem _ _ (by omega)]
    · rw [if_neg (by omega), List.getD_eq_default _ _ (by omega), dif_neg (by omega),
        List.getD_eq_default _ _ (by omega)]
  · rw [if_neg h1, if_neg (by omega)]
    by_cases h2 : a < 80
    · rw [dif_pos h2, List.getD_eq_getElem _ _ (by omega), Vector.getElem_toList]
    · rw [dif_neg h2, List.getD_eq_default _ _ (by omega)]

/-- A fresh memory is canonical (R244). -/
theorem wf_bootMemory (fill : Byte) (glyphs : Vector Byte 80) {image : List Byte} (h : image.length ≤ 3584) :
    (bootMemory fill glyphs image).wf = true := by
  have hl : glyphs.toList.length = 80 := Vector.length_toList
  unfold bootMemory
  refine wf_writeBytes (wf_writeBytes (wf_writeBytes rfl (.inr ?_)) (.inr ?_)) (.inr ?_)
  · rw [List.length_replicate, Nat.zero_add]
  · unfold Config.fontBase Config.memSize; omega
  · unfold Config.programBase Config.memSize; omega

/-- The reset state is the launch of the empty image with every parameter at its default (R241). -/
theorem boot_default : boot defaultParams resetV resetI initMem defaultFont [] = .next State.reset := by
  have h : bootMemory initMem defaultFont [] = [] := by
    refine mem_ext (wf_bootMemory _ _ (Nat.zero_le _)) rfl fun a => ?_
    rw [read_bootMemory, if_neg (by simp only [List.length_nil]; omega)]
    show _ = unlisted a
    have hl : font.length = 80 := rfl
    by_cases h1 : a < 80
    · rw [dif_pos h1, defaultFont, Vector.getElem_ofFn]
      rfl
    · have hu : unlisted a = initMem := List.getD_eq_default _ _ (by omega)
      rw [dif_neg h1, hu, ite_self]
  unfold boot
  rw [h]
  rfl

end Sys2Proof.Machine
end

