-- ==== Sys2Proof/Laws/Decode.lean ====
section
/-! SUPPORT. A word put together from its fields gives them back (30_encoding.md R82), and so do its bytes. -/

namespace Sys2Proof

/-! ### op : x : nn -/

@[simp] theorem opOf_xnn (op x : Nibble) (nn : Byte) : opOf (op ++ x ++ nn) = op := by
  ext i h
  rw [opOf, BitVec.getElem_extractLsb', BitVec.getLsbD_append, BitVec.getLsbD_append, if_neg (by omega),
    if_neg (by omega), BitVec.getLsbD_eq_getElem (by omega)]
  congr 1; omega

@[simp] theorem xOf_xnn (op x : Nibble) (nn : Byte) : xOf (op ++ x ++ nn) = x := by
  ext i h
  rw [xOf, BitVec.getElem_extractLsb', BitVec.getLsbD_append, BitVec.getLsbD_append, if_neg (by omega),
    if_pos (by omega), BitVec.getLsbD_eq_getElem (by omega)]
  congr 1; omega

@[simp] theorem nnOf_xnn (op x : Nibble) (nn : Byte) : nnOf (op ++ x ++ nn) = nn := by
  ext i h
  rw [nnOf, BitVec.getElem_extractLsb', BitVec.getLsbD_append, if_pos (by omega),
    BitVec.getLsbD_eq_getElem (by omega)]
  congr 1; omega

/-! ### op : x : y : n -/

@[simp] theorem opOf_xyn (op x y n : Nibble) : opOf (op ++ x ++ y ++ n) = op := by
  ext i h
  rw [opOf, BitVec.getElem_extractLsb', BitVec.getLsbD_append, BitVec.getLsbD_append, BitVec.getLsbD_append,
    if_neg (by omega), if_neg (by omega), if_neg (by omega), BitVec.getLsbD_eq_getElem (by omega)]
  congr 1; omega

@[simp] theorem xOf_xyn (op x y n : Nibble) : xOf (op ++ x ++ y ++ n) = x := by
  ext i h
  rw [xOf, BitVec.getElem_extractLsb', BitVec.getLsbD_append, BitVec.getLsbD_append, BitVec.getLsbD_append,
    if_neg (by omega), if_neg (by omega), if_pos (by omega), BitVec.getLsbD_eq_getElem (by omega)]
  congr 1; omega

@[simp] theorem yOf_xyn (op x y n : Nibble) : yOf (op ++ x ++ y ++ n) = y := by
  ext i h
  rw [yOf, BitVec.getElem_extractLsb', BitVec.getLsbD_append, BitVec.getLsbD_append,
    if_neg (by omega), if_pos (by omega), BitVec.getLsbD_eq_getElem (by omega)]
  congr 1; omega

@[simp] theorem nOf_xyn (op x y n : Nibble) : nOf (op ++ x ++ y ++ n) = n := by
  ext i h
  rw [nOf, BitVec.getElem_extractLsb', BitVec.getLsbD_append, if_pos (by omega),
    BitVec.getLsbD_eq_getElem (by omega)]
  congr 1; omega

/-! ### op : nnn -/

@[simp] theorem opOf_nnn (op : Nibble) (nnn : Addr12) : opOf (op ++ nnn) = op := by
  ext i h
  rw [opOf, BitVec.getElem_extractLsb', BitVec.getLsbD_append, if_neg (by omega),
    BitVec.getLsbD_eq_getElem (by omega)]
  congr 1; omega

@[simp] theorem nnnOf_nnn (op : Nibble) (nnn : Addr12) : nnnOf (op ++ nnn) = nnn := by
  ext i h
  rw [nnnOf, BitVec.getElem_extractLsb', BitVec.getLsbD_append, if_pos (by omega),
    BitVec.getLsbD_eq_getElem (by omega)]
  congr 1; omega

/-! ### The other direction: a word is its fields put together -/

theorem word_eq_xnn (w : Word) : opOf w ++ xOf w ++ nnOf w = w := by
  apply BitVec.eq_of_getLsbD_eq
  intro i hi
  rw [BitVec.getLsbD_append, BitVec.getLsbD_append]
  simp only [opOf, xOf, nnOf, BitVec.getLsbD_extractLsb']
  by_cases h1 : i < 8
  · simp [h1]
  · by_cases h2 : i - 8 < 4
    · simp [h1, h2, show 8 + (i - 8) = i by omega]
    · simp [h1, h2, show 12 + (i - 8 - 4) = i by omega, show i - 8 - 4 < 4 by omega]

theorem word_eq_xyn (w : Word) : opOf w ++ xOf w ++ yOf w ++ nOf w = w := by
  apply BitVec.eq_of_getLsbD_eq
  intro i hi
  rw [BitVec.getLsbD_append, BitVec.getLsbD_append, BitVec.getLsbD_append]
  simp only [opOf, xOf, yOf, nOf, BitVec.getLsbD_extractLsb']
  by_cases h1 : i < 4
  · simp [h1]
  · by_cases h2 : i - 4 < 4
    · simp [h1, h2, show 4 + (i - 4) = i by omega]
    · by_cases h3 : i - 4 - 4 < 4
      · simp [h1, h2, h3, show 8 + (i - 4 - 4) = i by omega]
      · simp [h1, h2, h3, show 12 + (i - 4 - 4 - 4) = i by omega, show i - 4 - 4 - 4 < 4 by omega]

theorem word_eq_nnn (w : Word) : opOf w ++ nnnOf w = w := by
  apply BitVec.eq_of_getLsbD_eq
  intro i hi
  rw [BitVec.getLsbD_append]
  simp only [opOf, nnnOf, BitVec.getLsbD_extractLsb']
  by_cases h1 : i < 12
  · simp [h1]
  · simp [h1, show 12 + (i - 12) = i by omega, show i - 12 < 4 by omega]

/-! ### Bytes -/

/-- A word is its two bytes, high byte first. -/
@[simp] theorem joinBytes_hi_lo (w : Word) : joinBytes (hiByte w) (loByte w) = w := by
  apply BitVec.eq_of_getLsbD_eq
  intro i hi
  rw [joinBytes, BitVec.getLsbD_append]
  simp only [hiByte, loByte, BitVec.getLsbD_extractLsb']
  by_cases h1 : i < 8
  · simp [h1]
  · simp [h1, show 8 + (i - 8) = i by omega, show i - 8 < 8 by omega]

@[simp] theorem hiByte_joinBytes (b0 b1 : Byte) : hiByte (joinBytes b0 b1) = b0 := by
  ext i h
  rw [hiByte, joinBytes, BitVec.getElem_extractLsb', BitVec.getLsbD_append, if_neg (by omega),
    BitVec.getLsbD_eq_getElem (by omega)]
  congr 1; omega

@[simp] theorem loByte_joinBytes (b0 b1 : Byte) : loByte (joinBytes b0 b1) = b1 := by
  ext i h
  rw [loByte, joinBytes, BitVec.getElem_extractLsb', BitVec.getLsbD_append, if_pos (by omega),
    BitVec.getLsbD_eq_getElem (by omega)]
  congr 1; omega

/-- w = b0 * 256 + b1 (R61, R81). -/
theorem joinBytes_toNat (b0 b1 : Byte) : (joinBytes b0 b1).toNat = b0.toNat * 256 + b1.toNat := by
  unfold joinBytes
  rw [BitVec.toNat_append, Nat.shiftLeft_eq, Nat.mul_comm, ← Nat.two_pow_add_eq_or_of_lt b1.isLt]

/-! ### Well-formed terms -/

/-- No instruction is ill-formed: a field's type is exactly its width (R82). -/
theorem wellFormed_all (i : Instr) : i.wellFormed = true := by
  have h4 : ∀ x : Nibble, x.toNat < 16 := fun x => x.isLt
  have h8 : ∀ b : Byte, b.toNat < 256 := fun b => b.isLt
  have h12 : ∀ a : Addr12, a.toNat < 4096 := fun a => a.isLt
  cases i <;> simp [Instr.wellFormed, Instr.fields, h4, h8, h12]

end Sys2Proof
end

