-- ==== Sys2Proof/Laws/Display.lean ====
section
/-! SUPPORT. One pixel through the framebuffer operations, and what a whole draw does (44_display.md R170 to R173). -/

namespace Sys2Proof.Machine

@[simp] theorem pixel_clearFrame (p : Fin 2048) : pixel clearFrame p = false := by
  simp [pixel, clearFrame]

/-- XORing a bit into a pixel changes that pixel by the bit. -/
@[simp] theorem pixel_xorPixel_same (fb : Frame) (p : Fin 2048) (bit : Bool) :
    pixel (xorPixel fb p bit) p = (pixel fb p != bit) := by
  have : p.val % 64 < 64 := Nat.mod_lt _ (by omega)
  cases bit <;> simp [pixel, xorPixel, this]

/-- XORing a bit into a pixel leaves every other pixel alone. -/
theorem pixel_xorPixel_ne (fb : Frame) {p q : Fin 2048} (bit : Bool) (h : q ≠ p) :
    pixel (xorPixel fb p bit) q = pixel fb q := by
  have hne : p.val ≠ q.val := fun e => h (Fin.ext e.symm)
  cases bit with
  | false => simp [xorPixel]
  | true =>
    by_cases hr : p.val / 64 = q.val / 64
    · have hc : p.val % 64 ≠ q.val % 64 := by omega
      simp [pixel, xorPixel, hr, BitVec.getLsbD_twoPow, hc]
    · simp [pixel, xorPixel, hr]

/-- Two framebuffers with the same pixels are the same. -/
theorem frame_ext {f g : Frame} (h : ∀ p, pixel f p = pixel g p) : f = g := by
  apply Vector.ext
  intro r hr
  apply BitVec.eq_of_getLsbD_eq
  intro c hc
  have := h ⟨r * 64 + c, by omega⟩
  simpa [pixel, show (r * 64 + c) / 64 = r by omega, show (r * 64 + c) % 64 = c by omega] using this

/-- The index of R172, as a number. -/
theorem pixelIndex_val (wrap : Config.DrawWrap) (c r : Nat) :
    (pixelIndex wrap c r).val = match wrap with
      | .linear => (r * 64 + c) % 2048
      | .toroidal => r % 32 * 64 + c % 64 := by
  cases wrap <;> rfl

/-- No draw of at most 15 rows touches a pixel twice (R172). -/
theorem pixelIndex_injective (wrap : Config.DrawWrap) (x0 y0 : Nat) {dx dy dx' dy' : Nat} (hx : dx < 8) (hx' : dx' < 8)
    (hy : dy < 15) (hy' : dy' < 15)
    (h : pixelIndex wrap (x0 + dx) (y0 + dy) = pixelIndex wrap (x0 + dx') (y0 + dy')) : dx = dx' ∧ dy = dy' := by
  have h := congrArg Fin.val h
  rw [pixelIndex_val, pixelIndex_val] at h
  cases wrap <;> simp only at h <;> omega

/-! ### A whole draw -/

/-- The pixels a draw visits with the sprite bit it meets each with, in order (R171). -/
def visits (wrap : Config.DrawWrap) (x0 y0 : Nat) : Nat → List Byte → List (Fin 2048 × Bool)
  | _, [] => []
  | dy, b :: bs =>
    ((List.range 8).map fun dx => (pixelIndex wrap (x0 + dx) (y0 + dy), spriteBit b dx)) ++ visits wrap x0 y0 (dy + 1) bs

/-- One visit: the pixel is XORed, and the collision so far is ORed (R171, R173). -/
def visit (acc : Frame × Bool) (v : Fin 2048 × Bool) : Frame × Bool :=
  (xorPixel acc.1 v.1 v.2, acc.2 || (v.2 && pixel acc.1 v.1))

theorem drawRows_eq_foldl (wrap : Config.DrawWrap) (x0 y0 dy : Nat) (sprite : List Byte) (acc : Frame × Bool) :
    drawRows wrap x0 y0 dy sprite acc = (visits wrap x0 y0 dy sprite).foldl visit acc := by
  induction sprite generalizing dy acc with
  | nil => rfl
  | cons b bs ih =>
    rw [drawRows, ih, visits, List.foldl_append, List.foldl_map]
    rfl

/-- A visit to one place leaves the others; so where no place is visited twice, the pixels and the collision are
those of the framebuffer before. -/
theorem foldl_visit (l : List (Fin 2048 × Bool)) (hn : (l.map Prod.fst).Nodup) (acc : Frame × Bool) :
    (∀ p, pixel (l.foldl visit acc).1 p = (pixel acc.1 p != decide ((p, true) ∈ l))) ∧
    (l.foldl visit acc).2 = (acc.2 || l.any fun v => v.2 && pixel acc.1 v.1) := by
  induction l generalizing acc with
  | nil => simp
  | cons v vs ih =>
    obtain ⟨q, bit⟩ := v
    simp only [List.map_cons, List.nodup_cons] at hn
    have hq : ∀ b, (q, b) ∉ vs := fun b h => hn.1 (List.mem_map_of_mem (f := Prod.fst) h)
    obtain ⟨h1, h2⟩ := ih hn.2 (visit acc (q, bit))
    rw [List.foldl_cons]
    constructor
    · intro p
      rw [h1 p]
      by_cases hp : p = q
      · subst hp
        cases bit <;> simp [visit, hq]
      · simp [visit, pixel_xorPixel_ne _ _ hp, hp]
    · rw [h2, List.any_cons]
      have hany : (vs.any fun v => v.2 && pixel (visit acc (q, bit)).1 v.1) = vs.any fun v => v.2 && pixel acc.1 v.1 := by
        rw [Bool.eq_iff_iff, List.any_eq_true, List.any_eq_true]
        refine exists_congr fun w => and_congr_right fun hw => ?_
        have hne : w.1 ≠ q := fun e => hq w.2 (by rw [← e]; exact hw)
        rw [visit, pixel_xorPixel_ne _ _ hne]
      rw [hany, visit, Bool.or_assoc]

theorem mem_visits (wrap : Config.DrawWrap) (x0 y0 dy : Nat) (sprite : List Byte) (p : Fin 2048) (bit : Bool) :
    (p, bit) ∈ visits wrap x0 y0 dy sprite ↔ ∃ k dx, ∃ h : k < sprite.length, dx < 8 ∧
      spriteBit sprite[k] dx = bit ∧ p = pixelIndex wrap (x0 + dx) (y0 + (dy + k)) := by
  induction sprite generalizing dy with
  | nil => simp [visits]
  | cons b bs ih =>
    rw [visits, List.mem_append, ih, List.mem_map]
    constructor
    · rintro (⟨dx, hdx, he⟩ | ⟨k, dx, h, hdx, hb, hp⟩)
      · cases he
        exact ⟨0, dx, Nat.succ_pos _, List.mem_range.mp hdx, rfl, rfl⟩
      · exact ⟨k + 1, dx, Nat.succ_lt_succ h, hdx, hb, by rw [hp]; congr 1; omega⟩
    · rintro ⟨k, dx, h, hdx, hb, hp⟩
      cases k with
      | zero => exact .inl ⟨dx, List.mem_range.mpr hdx, by simp_all⟩
      | succ k => exact .inr ⟨k, dx, Nat.lt_of_succ_lt_succ h, hdx, hb, by rw [hp]; congr 1; omega⟩

/-- No draw of at most 15 rows visits a pixel twice (R172). -/
theorem visits_nodup (wrap : Config.DrawWrap) (x0 y0 dy : Nat) (sprite : List Byte) (h : dy + sprite.length ≤ 15) :
    ((visits wrap x0 y0 dy sprite).map Prod.fst).Nodup := by
  induction sprite generalizing dy with
  | nil => exact List.nodup_nil
  | cons b bs ih =>
    have hlen : dy + (bs.length + 1) ≤ 15 := h
    rw [visits, List.map_append, List.map_map]
    refine List.Nodup.append ?_ (ih (dy + 1) (by omega)) ?_
    · refine List.Nodup.map_on ?_ List.nodup_range
      intro a ha c hc e
      exact (pixelIndex_injective wrap x0 y0 (List.mem_range.mp ha) (List.mem_range.mp hc) (by omega) (by omega) e).1
    · rw [List.disjoint_left]
      intro p hp hp'
      obtain ⟨dx, hdx, rfl⟩ := List.mem_map.mp hp
      obtain ⟨⟨_, bit⟩, hv, rfl⟩ := List.mem_map.mp hp'
      obtain ⟨k, dx', hk, hdx', -, he⟩ := (mem_visits wrap x0 y0 (dy + 1) bs _ bit).mp hv
      have := (pixelIndex_injective wrap x0 y0 (List.mem_range.mp hdx) hdx' (by omega) (by omega) he).2
      omega

/-- What a draw of at most 15 rows does: it flips the pixels under the sprite's 1 bits, and reports whether one of
them was on before (R171, R173). -/
theorem draw_spec (wrap : Config.DrawWrap) (fb : Frame) (x0 y0 : Nat) (sprite : List Byte) (h : sprite.length ≤ 15) :
    (∀ p, pixel (draw wrap fb x0 y0 sprite).1 p =
      (pixel fb p != decide ((p, true) ∈ visits wrap x0 y0 0 sprite))) ∧
    ((draw wrap fb x0 y0 sprite).2 = true ↔ ∃ p, (p, true) ∈ visits wrap x0 y0 0 sprite ∧ pixel fb p = true) := by
  have hs := foldl_visit _ (visits_nodup wrap x0 y0 0 sprite (by omega)) (fb, false)
  rw [draw, drawRows_eq_foldl]
  refine ⟨hs.1, ?_⟩
  rw [hs.2, Bool.false_or, List.any_eq_true]
  constructor
  · rintro ⟨⟨p, bit⟩, hv, hb⟩
    simp only [Bool.and_eq_true] at hb
    exact ⟨p, by rw [← hb.1]; exact hv, hb.2⟩
  · rintro ⟨p, hv, hp⟩
    exact ⟨(p, true), hv, by simp [hp]⟩

end Sys2Proof.Machine
end

