-- ==== Sys2Proof/Laws/State.lean ====
section
/-! SUPPORT. The small lemmas of the record updates: one lemma per field per update, so that no later proof
unfolds an update. First the unconditional updates, then those that branch. -/

namespace Sys2Proof.Machine

/-! ### writeV -/

@[simp] theorem writeV_v (s : State) (x : Nibble) (b : Byte) : (s.writeV x b).v = s.v.set x.toNat b x.isLt := rfl
@[simp] theorem writeV_i (s : State) (x : Nibble) (b : Byte) : (s.writeV x b).i = s.i := rfl
@[simp] theorem writeV_pc (s : State) (x : Nibble) (b : Byte) : (s.writeV x b).pc = s.pc := rfl
@[simp] theorem writeV_stack (s : State) (x : Nibble) (b : Byte) : (s.writeV x b).stack = s.stack := rfl
@[simp] theorem writeV_sp (s : State) (x : Nibble) (b : Byte) : (s.writeV x b).sp = s.sp := rfl
@[simp] theorem writeV_mem (s : State) (x : Nibble) (b : Byte) : (s.writeV x b).mem = s.mem := rfl
@[simp] theorem writeV_fb (s : State) (x : Nibble) (b : Byte) : (s.writeV x b).fb = s.fb := rfl
@[simp] theorem writeV_hexKeys (s : State) (x : Nibble) (b : Byte) : (s.writeV x b).hexKeys = s.hexKeys := rfl
@[simp] theorem writeV_exitKey (s : State) (x : Nibble) (b : Byte) : (s.writeV x b).exitKey = s.exitKey := rfl
@[simp] theorem writeV_wait (s : State) (x : Nibble) (b : Byte) : (s.writeV x b).wait = s.wait := rfl
@[simp] theorem writeV_run (s : State) (x : Nibble) (b : Byte) : (s.writeV x b).run = s.run := rfl
@[simp] theorem writeV_record (s : State) (x : Nibble) (b : Byte) : (s.writeV x b).record = s.record := rfl
@[simp] theorem writeV_div (s : State) (x : Nibble) (b : Byte) : (s.writeV x b).div = s.div := rfl
@[simp] theorem writeV_dt (s : State) (x : Nibble) (b : Byte) : (s.writeV x b).dt = s.dt := rfl
@[simp] theorem writeV_st (s : State) (x : Nibble) (b : Byte) : (s.writeV x b).st = s.st := rfl
@[simp] theorem writeV_cfg (s : State) (x : Nibble) (b : Byte) : (s.writeV x b).cfg = s.cfg := rfl
@[simp] theorem writeV_draws (s : State) (x : Nibble) (b : Byte) : (s.writeV x b).draws = s.draws := rfl
@[simp] theorem writeV_shown (s : State) (x : Nibble) (b : Byte) : (s.writeV x b).shown = s.shown := rfl
@[simp] theorem writeV_inputs (s : State) (x : Nibble) (b : Byte) : (s.writeV x b).inputs = s.inputs := rfl

/-! ### writeI -/

@[simp] theorem writeI_v (s : State) (w : Word) : (s.writeI w).v = s.v := rfl
@[simp] theorem writeI_i (s : State) (w : Word) : (s.writeI w).i = w := rfl
@[simp] theorem writeI_pc (s : State) (w : Word) : (s.writeI w).pc = s.pc := rfl
@[simp] theorem writeI_stack (s : State) (w : Word) : (s.writeI w).stack = s.stack := rfl
@[simp] theorem writeI_sp (s : State) (w : Word) : (s.writeI w).sp = s.sp := rfl
@[simp] theorem writeI_mem (s : State) (w : Word) : (s.writeI w).mem = s.mem := rfl
@[simp] theorem writeI_fb (s : State) (w : Word) : (s.writeI w).fb = s.fb := rfl
@[simp] theorem writeI_hexKeys (s : State) (w : Word) : (s.writeI w).hexKeys = s.hexKeys := rfl
@[simp] theorem writeI_exitKey (s : State) (w : Word) : (s.writeI w).exitKey = s.exitKey := rfl
@[simp] theorem writeI_wait (s : State) (w : Word) : (s.writeI w).wait = s.wait := rfl
@[simp] theorem writeI_run (s : State) (w : Word) : (s.writeI w).run = s.run := rfl
@[simp] theorem writeI_record (s : State) (w : Word) : (s.writeI w).record = s.record := rfl
@[simp] theorem writeI_div (s : State) (w : Word) : (s.writeI w).div = s.div := rfl
@[simp] theorem writeI_dt (s : State) (w : Word) : (s.writeI w).dt = s.dt := rfl
@[simp] theorem writeI_st (s : State) (w : Word) : (s.writeI w).st = s.st := rfl
@[simp] theorem writeI_cfg (s : State) (w : Word) : (s.writeI w).cfg = s.cfg := rfl
@[simp] theorem writeI_draws (s : State) (w : Word) : (s.writeI w).draws = s.draws := rfl
@[simp] theorem writeI_shown (s : State) (w : Word) : (s.writeI w).shown = s.shown := rfl
@[simp] theorem writeI_inputs (s : State) (w : Word) : (s.writeI w).inputs = s.inputs := rfl

/-! ### setPc -/

@[simp] theorem setPc_v (s : State) (w : Word) : (s.setPc w).v = s.v := rfl
@[simp] theorem setPc_i (s : State) (w : Word) : (s.setPc w).i = s.i := rfl
@[simp] theorem setPc_pc (s : State) (w : Word) : (s.setPc w).pc = w := rfl
@[simp] theorem setPc_stack (s : State) (w : Word) : (s.setPc w).stack = s.stack := rfl
@[simp] theorem setPc_sp (s : State) (w : Word) : (s.setPc w).sp = s.sp := rfl
@[simp] theorem setPc_mem (s : State) (w : Word) : (s.setPc w).mem = s.mem := rfl
@[simp] theorem setPc_fb (s : State) (w : Word) : (s.setPc w).fb = s.fb := rfl
@[simp] theorem setPc_hexKeys (s : State) (w : Word) : (s.setPc w).hexKeys = s.hexKeys := rfl
@[simp] theorem setPc_exitKey (s : State) (w : Word) : (s.setPc w).exitKey = s.exitKey := rfl
@[simp] theorem setPc_wait (s : State) (w : Word) : (s.setPc w).wait = s.wait := rfl
@[simp] theorem setPc_run (s : State) (w : Word) : (s.setPc w).run = s.run := rfl
@[simp] theorem setPc_record (s : State) (w : Word) : (s.setPc w).record = s.record := rfl
@[simp] theorem setPc_div (s : State) (w : Word) : (s.setPc w).div = s.div := rfl
@[simp] theorem setPc_dt (s : State) (w : Word) : (s.setPc w).dt = s.dt := rfl
@[simp] theorem setPc_st (s : State) (w : Word) : (s.setPc w).st = s.st := rfl
@[simp] theorem setPc_cfg (s : State) (w : Word) : (s.setPc w).cfg = s.cfg := rfl
@[simp] theorem setPc_draws (s : State) (w : Word) : (s.setPc w).draws = s.draws := rfl
@[simp] theorem setPc_shown (s : State) (w : Word) : (s.setPc w).shown = s.shown := rfl
@[simp] theorem setPc_inputs (s : State) (w : Word) : (s.setPc w).inputs = s.inputs := rfl

/-! ### advance -/

@[simp] theorem advance_v (s : State) : (s.advance).v = s.v := rfl
@[simp] theorem advance_i (s : State) : (s.advance).i = s.i := rfl
@[simp] theorem advance_pc (s : State) : (s.advance).pc = s.pc + 2 := rfl
@[simp] theorem advance_stack (s : State) : (s.advance).stack = s.stack := rfl
@[simp] theorem advance_sp (s : State) : (s.advance).sp = s.sp := rfl
@[simp] theorem advance_mem (s : State) : (s.advance).mem = s.mem := rfl
@[simp] theorem advance_fb (s : State) : (s.advance).fb = s.fb := rfl
@[simp] theorem advance_hexKeys (s : State) : (s.advance).hexKeys = s.hexKeys := rfl
@[simp] theorem advance_exitKey (s : State) : (s.advance).exitKey = s.exitKey := rfl
@[simp] theorem advance_wait (s : State) : (s.advance).wait = s.wait := rfl
@[simp] theorem advance_run (s : State) : (s.advance).run = s.run := rfl
@[simp] theorem advance_record (s : State) : (s.advance).record = s.record := rfl
@[simp] theorem advance_div (s : State) : (s.advance).div = s.div := rfl
@[simp] theorem advance_dt (s : State) : (s.advance).dt = s.dt := rfl
@[simp] theorem advance_st (s : State) : (s.advance).st = s.st := rfl
@[simp] theorem advance_cfg (s : State) : (s.advance).cfg = s.cfg := rfl
@[simp] theorem advance_draws (s : State) : (s.advance).draws = s.draws := rfl
@[simp] theorem advance_shown (s : State) : (s.advance).shown = s.shown := rfl
@[simp] theorem advance_inputs (s : State) : (s.advance).inputs = s.inputs := rfl

/-! ### skipIf -/

@[simp] theorem skipIf_v (s : State) (c : Bool) : (s.skipIf c).v = s.v := rfl
@[simp] theorem skipIf_i (s : State) (c : Bool) : (s.skipIf c).i = s.i := rfl
@[simp] theorem skipIf_pc (s : State) (c : Bool) : (s.skipIf c).pc = if c then s.pc + 4 else s.pc + 2 := rfl
@[simp] theorem skipIf_stack (s : State) (c : Bool) : (s.skipIf c).stack = s.stack := rfl
@[simp] theorem skipIf_sp (s : State) (c : Bool) : (s.skipIf c).sp = s.sp := rfl
@[simp] theorem skipIf_mem (s : State) (c : Bool) : (s.skipIf c).mem = s.mem := rfl
@[simp] theorem skipIf_fb (s : State) (c : Bool) : (s.skipIf c).fb = s.fb := rfl
@[simp] theorem skipIf_hexKeys (s : State) (c : Bool) : (s.skipIf c).hexKeys = s.hexKeys := rfl
@[simp] theorem skipIf_exitKey (s : State) (c : Bool) : (s.skipIf c).exitKey = s.exitKey := rfl
@[simp] theorem skipIf_wait (s : State) (c : Bool) : (s.skipIf c).wait = s.wait := rfl
@[simp] theorem skipIf_run (s : State) (c : Bool) : (s.skipIf c).run = s.run := rfl
@[simp] theorem skipIf_record (s : State) (c : Bool) : (s.skipIf c).record = s.record := rfl
@[simp] theorem skipIf_div (s : State) (c : Bool) : (s.skipIf c).div = s.div := rfl
@[simp] theorem skipIf_dt (s : State) (c : Bool) : (s.skipIf c).dt = s.dt := rfl
@[simp] theorem skipIf_st (s : State) (c : Bool) : (s.skipIf c).st = s.st := rfl
@[simp] theorem skipIf_cfg (s : State) (c : Bool) : (s.skipIf c).cfg = s.cfg := rfl
@[simp] theorem skipIf_draws (s : State) (c : Bool) : (s.skipIf c).draws = s.draws := rfl
@[simp] theorem skipIf_shown (s : State) (c : Bool) : (s.skipIf c).shown = s.shown := rfl
@[simp] theorem skipIf_inputs (s : State) (c : Bool) : (s.skipIf c).inputs = s.inputs := rfl

/-! ### storeBytes -/

@[simp] theorem storeBytes_v (s : State) (a : Nat) (bs : List Byte) : (s.storeBytes a bs).v = s.v := rfl
@[simp] theorem storeBytes_i (s : State) (a : Nat) (bs : List Byte) : (s.storeBytes a bs).i = s.i := rfl
@[simp] theorem storeBytes_pc (s : State) (a : Nat) (bs : List Byte) : (s.storeBytes a bs).pc = s.pc := rfl
@[simp] theorem storeBytes_stack (s : State) (a : Nat) (bs : List Byte) : (s.storeBytes a bs).stack = s.stack := rfl
@[simp] theorem storeBytes_sp (s : State) (a : Nat) (bs : List Byte) : (s.storeBytes a bs).sp = s.sp := rfl
@[simp] theorem storeBytes_mem (s : State) (a : Nat) (bs : List Byte) : (s.storeBytes a bs).mem = s.mem.writeBytes a bs := rfl
@[simp] theorem storeBytes_fb (s : State) (a : Nat) (bs : List Byte) : (s.storeBytes a bs).fb = s.fb := rfl
@[simp] theorem storeBytes_hexKeys (s : State) (a : Nat) (bs : List Byte) : (s.storeBytes a bs).hexKeys = s.hexKeys := rfl
@[simp] theorem storeBytes_exitKey (s : State) (a : Nat) (bs : List Byte) : (s.storeBytes a bs).exitKey = s.exitKey := rfl
@[simp] theorem storeBytes_wait (s : State) (a : Nat) (bs : List Byte) : (s.storeBytes a bs).wait = s.wait := rfl
@[simp] theorem storeBytes_run (s : State) (a : Nat) (bs : List Byte) : (s.storeBytes a bs).run = s.run := rfl
@[simp] theorem storeBytes_record (s : State) (a : Nat) (bs : List Byte) : (s.storeBytes a bs).record = s.record := rfl
@[simp] theorem storeBytes_div (s : State) (a : Nat) (bs : List Byte) : (s.storeBytes a bs).div = s.div := rfl
@[simp] theorem storeBytes_dt (s : State) (a : Nat) (bs : List Byte) : (s.storeBytes a bs).dt = s.dt := rfl
@[simp] theorem storeBytes_st (s : State) (a : Nat) (bs : List Byte) : (s.storeBytes a bs).st = s.st := rfl
@[simp] theorem storeBytes_cfg (s : State) (a : Nat) (bs : List Byte) : (s.storeBytes a bs).cfg = s.cfg := rfl
@[simp] theorem storeBytes_draws (s : State) (a : Nat) (bs : List Byte) : (s.storeBytes a bs).draws = s.draws := rfl
@[simp] theorem storeBytes_shown (s : State) (a : Nat) (bs : List Byte) : (s.storeBytes a bs).shown = s.shown := rfl
@[simp] theorem storeBytes_inputs (s : State) (a : Nat) (bs : List Byte) : (s.storeBytes a bs).inputs = s.inputs := rfl

/-! ### nextDraw -/

@[simp] theorem nextDraw_v (s : State) : (s.nextDraw).v = s.v := rfl
@[simp] theorem nextDraw_i (s : State) : (s.nextDraw).i = s.i := rfl
@[simp] theorem nextDraw_pc (s : State) : (s.nextDraw).pc = s.pc := rfl
@[simp] theorem nextDraw_stack (s : State) : (s.nextDraw).stack = s.stack := rfl
@[simp] theorem nextDraw_sp (s : State) : (s.nextDraw).sp = s.sp := rfl
@[simp] theorem nextDraw_mem (s : State) : (s.nextDraw).mem = s.mem := rfl
@[simp] theorem nextDraw_fb (s : State) : (s.nextDraw).fb = s.fb := rfl
@[simp] theorem nextDraw_hexKeys (s : State) : (s.nextDraw).hexKeys = s.hexKeys := rfl
@[simp] theorem nextDraw_exitKey (s : State) : (s.nextDraw).exitKey = s.exitKey := rfl
@[simp] theorem nextDraw_wait (s : State) : (s.nextDraw).wait = s.wait := rfl
@[simp] theorem nextDraw_run (s : State) : (s.nextDraw).run = s.run := rfl
@[simp] theorem nextDraw_record (s : State) : (s.nextDraw).record = s.record := rfl
@[simp] theorem nextDraw_div (s : State) : (s.nextDraw).div = s.div := rfl
@[simp] theorem nextDraw_dt (s : State) : (s.nextDraw).dt = s.dt := rfl
@[simp] theorem nextDraw_st (s : State) : (s.nextDraw).st = s.st := rfl
@[simp] theorem nextDraw_cfg (s : State) : (s.nextDraw).cfg = s.cfg := rfl
@[simp] theorem nextDraw_draws (s : State) : (s.nextDraw).draws = s.draws + 1 := rfl
@[simp] theorem nextDraw_shown (s : State) : (s.nextDraw).shown = s.shown := rfl
@[simp] theorem nextDraw_inputs (s : State) : (s.nextDraw).inputs = s.inputs := rfl

/-! ### stopFault -/

@[simp] theorem stopFault_v (s : State) (r : FaultRecord) : (s.stopFault r).v = s.v := rfl
@[simp] theorem stopFault_i (s : State) (r : FaultRecord) : (s.stopFault r).i = s.i := rfl
@[simp] theorem stopFault_pc (s : State) (r : FaultRecord) : (s.stopFault r).pc = s.pc := rfl
@[simp] theorem stopFault_stack (s : State) (r : FaultRecord) : (s.stopFault r).stack = s.stack := rfl
@[simp] theorem stopFault_sp (s : State) (r : FaultRecord) : (s.stopFault r).sp = s.sp := rfl
@[simp] theorem stopFault_mem (s : State) (r : FaultRecord) : (s.stopFault r).mem = s.mem := rfl
@[simp] theorem stopFault_fb (s : State) (r : FaultRecord) : (s.stopFault r).fb = s.fb := rfl
@[simp] theorem stopFault_hexKeys (s : State) (r : FaultRecord) : (s.stopFault r).hexKeys = s.hexKeys := rfl
@[simp] theorem stopFault_exitKey (s : State) (r : FaultRecord) : (s.stopFault r).exitKey = s.exitKey := rfl
@[simp] theorem stopFault_wait (s : State) (r : FaultRecord) : (s.stopFault r).wait = s.wait := rfl
@[simp] theorem stopFault_run (s : State) (r : FaultRecord) : (s.stopFault r).run = .stoppedFault := rfl
@[simp] theorem stopFault_record (s : State) (r : FaultRecord) : (s.stopFault r).record = some r := rfl
@[simp] theorem stopFault_div (s : State) (r : FaultRecord) : (s.stopFault r).div = s.div := rfl
@[simp] theorem stopFault_dt (s : State) (r : FaultRecord) : (s.stopFault r).dt = s.dt := rfl
@[simp] theorem stopFault_st (s : State) (r : FaultRecord) : (s.stopFault r).st = s.st := rfl
@[simp] theorem stopFault_cfg (s : State) (r : FaultRecord) : (s.stopFault r).cfg = s.cfg := rfl
@[simp] theorem stopFault_draws (s : State) (r : FaultRecord) : (s.stopFault r).draws = s.draws := rfl
@[simp] theorem stopFault_shown (s : State) (r : FaultRecord) : (s.stopFault r).shown = s.shown := rfl
@[simp] theorem stopFault_inputs (s : State) (r : FaultRecord) : (s.stopFault r).inputs = s.inputs := rfl

/-! ### loadRegs -/

@[simp] theorem loadRegs_v (s : State) (x : Nibble) : (s.loadRegs x).v = s.loadedRegs x := by simp only [State.loadRegs]
@[simp] theorem loadRegs_i (s : State) (x : Nibble) : (s.loadRegs x).i = s.i := by simp only [State.loadRegs]
@[simp] theorem loadRegs_pc (s : State) (x : Nibble) : (s.loadRegs x).pc = s.pc := by simp only [State.loadRegs]
@[simp] theorem loadRegs_stack (s : State) (x : Nibble) : (s.loadRegs x).stack = s.stack := by simp only [State.loadRegs]
@[simp] theorem loadRegs_sp (s : State) (x : Nibble) : (s.loadRegs x).sp = s.sp := by simp only [State.loadRegs]
@[simp] theorem loadRegs_mem (s : State) (x : Nibble) : (s.loadRegs x).mem = s.mem := by simp only [State.loadRegs]
@[simp] theorem loadRegs_fb (s : State) (x : Nibble) : (s.loadRegs x).fb = s.fb := by simp only [State.loadRegs]
@[simp] theorem loadRegs_hexKeys (s : State) (x : Nibble) : (s.loadRegs x).hexKeys = s.hexKeys := by simp only [State.loadRegs]
@[simp] theorem loadRegs_exitKey (s : State) (x : Nibble) : (s.loadRegs x).exitKey = s.exitKey := by simp only [State.loadRegs]
@[simp] theorem loadRegs_wait (s : State) (x : Nibble) : (s.loadRegs x).wait = s.wait := by simp only [State.loadRegs]
@[simp] theorem loadRegs_run (s : State) (x : Nibble) : (s.loadRegs x).run = s.run := by simp only [State.loadRegs]
@[simp] theorem loadRegs_record (s : State) (x : Nibble) : (s.loadRegs x).record = s.record := by simp only [State.loadRegs]
@[simp] theorem loadRegs_div (s : State) (x : Nibble) : (s.loadRegs x).div = s.div := by simp only [State.loadRegs]
@[simp] theorem loadRegs_dt (s : State) (x : Nibble) : (s.loadRegs x).dt = s.dt := by simp only [State.loadRegs]
@[simp] theorem loadRegs_st (s : State) (x : Nibble) : (s.loadRegs x).st = s.st := by simp only [State.loadRegs]
@[simp] theorem loadRegs_cfg (s : State) (x : Nibble) : (s.loadRegs x).cfg = s.cfg := by simp only [State.loadRegs]
@[simp] theorem loadRegs_draws (s : State) (x : Nibble) : (s.loadRegs x).draws = s.draws := by simp only [State.loadRegs]
@[simp] theorem loadRegs_shown (s : State) (x : Nibble) : (s.loadRegs x).shown = s.shown := by simp only [State.loadRegs]
@[simp] theorem loadRegs_inputs (s : State) (x : Nibble) : (s.loadRegs x).inputs = s.inputs := by simp only [State.loadRegs]

/-! ### setFb -/

@[simp] theorem setFb_v (s : State) (fb : Frame) : (s.setFb fb).v = s.v := rfl
@[simp] theorem setFb_i (s : State) (fb : Frame) : (s.setFb fb).i = s.i := rfl
@[simp] theorem setFb_pc (s : State) (fb : Frame) : (s.setFb fb).pc = s.pc := rfl
@[simp] theorem setFb_stack (s : State) (fb : Frame) : (s.setFb fb).stack = s.stack := rfl
@[simp] theorem setFb_sp (s : State) (fb : Frame) : (s.setFb fb).sp = s.sp := rfl
@[simp] theorem setFb_mem (s : State) (fb : Frame) : (s.setFb fb).mem = s.mem := rfl
@[simp] theorem setFb_fb (s : State) (fb : Frame) : (s.setFb fb).fb = fb := rfl
@[simp] theorem setFb_hexKeys (s : State) (fb : Frame) : (s.setFb fb).hexKeys = s.hexKeys := rfl
@[simp] theorem setFb_exitKey (s : State) (fb : Frame) : (s.setFb fb).exitKey = s.exitKey := rfl
@[simp] theorem setFb_wait (s : State) (fb : Frame) : (s.setFb fb).wait = s.wait := rfl
@[simp] theorem setFb_run (s : State) (fb : Frame) : (s.setFb fb).run = s.run := rfl
@[simp] theorem setFb_record (s : State) (fb : Frame) : (s.setFb fb).record = s.record := rfl
@[simp] theorem setFb_div (s : State) (fb : Frame) : (s.setFb fb).div = s.div := rfl
@[simp] theorem setFb_dt (s : State) (fb : Frame) : (s.setFb fb).dt = s.dt := rfl
@[simp] theorem setFb_st (s : State) (fb : Frame) : (s.setFb fb).st = s.st := rfl
@[simp] theorem setFb_cfg (s : State) (fb : Frame) : (s.setFb fb).cfg = s.cfg := rfl
@[simp] theorem setFb_draws (s : State) (fb : Frame) : (s.setFb fb).draws = s.draws := rfl
@[simp] theorem setFb_shown (s : State) (fb : Frame) : (s.setFb fb).shown = s.shown := rfl
@[simp] theorem setFb_inputs (s : State) (fb : Frame) : (s.setFb fb).inputs = s.inputs := rfl

/-! ### flush -/

@[simp] theorem flush_v (s : State) : (s.flush).v = s.v := rfl
@[simp] theorem flush_i (s : State) : (s.flush).i = s.i := rfl
@[simp] theorem flush_pc (s : State) : (s.flush).pc = s.pc := rfl
@[simp] theorem flush_stack (s : State) : (s.flush).stack = s.stack := rfl
@[simp] theorem flush_sp (s : State) : (s.flush).sp = s.sp := rfl
@[simp] theorem flush_mem (s : State) : (s.flush).mem = s.mem := rfl
@[simp] theorem flush_fb (s : State) : (s.flush).fb = s.fb := rfl
@[simp] theorem flush_hexKeys (s : State) : (s.flush).hexKeys = s.hexKeys := rfl
@[simp] theorem flush_exitKey (s : State) : (s.flush).exitKey = s.exitKey := rfl
@[simp] theorem flush_wait (s : State) : (s.flush).wait = s.wait := rfl
@[simp] theorem flush_run (s : State) : (s.flush).run = s.run := rfl
@[simp] theorem flush_record (s : State) : (s.flush).record = s.record := rfl
@[simp] theorem flush_div (s : State) : (s.flush).div = s.div := rfl
@[simp] theorem flush_dt (s : State) : (s.flush).dt = s.dt := rfl
@[simp] theorem flush_st (s : State) : (s.flush).st = s.st := rfl
@[simp] theorem flush_cfg (s : State) : (s.flush).cfg = s.cfg := rfl
@[simp] theorem flush_draws (s : State) : (s.flush).draws = s.draws := rfl
@[simp] theorem flush_shown (s : State) : (s.flush).shown = some s.fb := rfl
@[simp] theorem flush_inputs (s : State) : (s.flush).inputs = s.inputs := rfl

/-! ### setWait -/

@[simp] theorem setWait_v (s : State) (w : Wait) : (s.setWait w).v = s.v := rfl
@[simp] theorem setWait_i (s : State) (w : Wait) : (s.setWait w).i = s.i := rfl
@[simp] theorem setWait_pc (s : State) (w : Wait) : (s.setWait w).pc = s.pc := rfl
@[simp] theorem setWait_stack (s : State) (w : Wait) : (s.setWait w).stack = s.stack := rfl
@[simp] theorem setWait_sp (s : State) (w : Wait) : (s.setWait w).sp = s.sp := rfl
@[simp] theorem setWait_mem (s : State) (w : Wait) : (s.setWait w).mem = s.mem := rfl
@[simp] theorem setWait_fb (s : State) (w : Wait) : (s.setWait w).fb = s.fb := rfl
@[simp] theorem setWait_hexKeys (s : State) (w : Wait) : (s.setWait w).hexKeys = s.hexKeys := rfl
@[simp] theorem setWait_exitKey (s : State) (w : Wait) : (s.setWait w).exitKey = s.exitKey := rfl
@[simp] theorem setWait_wait (s : State) (w : Wait) : (s.setWait w).wait = w := rfl
@[simp] theorem setWait_run (s : State) (w : Wait) : (s.setWait w).run = s.run := rfl
@[simp] theorem setWait_record (s : State) (w : Wait) : (s.setWait w).record = s.record := rfl
@[simp] theorem setWait_div (s : State) (w : Wait) : (s.setWait w).div = s.div := rfl
@[simp] theorem setWait_dt (s : State) (w : Wait) : (s.setWait w).dt = s.dt := rfl
@[simp] theorem setWait_st (s : State) (w : Wait) : (s.setWait w).st = s.st := rfl
@[simp] theorem setWait_cfg (s : State) (w : Wait) : (s.setWait w).cfg = s.cfg := rfl
@[simp] theorem setWait_draws (s : State) (w : Wait) : (s.setWait w).draws = s.draws := rfl
@[simp] theorem setWait_shown (s : State) (w : Wait) : (s.setWait w).shown = s.shown := rfl
@[simp] theorem setWait_inputs (s : State) (w : Wait) : (s.setWait w).inputs = s.inputs := rfl

/-! ### keyTick -/

@[simp] theorem keyTick_v (s : State) : (s.keyTick).v = s.v := rfl
@[simp] theorem keyTick_i (s : State) : (s.keyTick).i = s.i := rfl
@[simp] theorem keyTick_pc (s : State) : (s.keyTick).pc = s.pc := rfl
@[simp] theorem keyTick_stack (s : State) : (s.keyTick).stack = s.stack := rfl
@[simp] theorem keyTick_sp (s : State) : (s.keyTick).sp = s.sp := rfl
@[simp] theorem keyTick_mem (s : State) : (s.keyTick).mem = s.mem := rfl
@[simp] theorem keyTick_fb (s : State) : (s.keyTick).fb = s.fb := rfl
@[simp] theorem keyTick_hexKeys (s : State) : (s.keyTick).hexKeys = s.hexKeys.map ageCounter := rfl
@[simp] theorem keyTick_exitKey (s : State) : (s.keyTick).exitKey = ageCounter s.exitKey := rfl
@[simp] theorem keyTick_wait (s : State) : (s.keyTick).wait = s.wait := rfl
@[simp] theorem keyTick_run (s : State) : (s.keyTick).run = s.run := rfl
@[simp] theorem keyTick_record (s : State) : (s.keyTick).record = s.record := rfl
@[simp] theorem keyTick_div (s : State) : (s.keyTick).div = s.div := rfl
@[simp] theorem keyTick_dt (s : State) : (s.keyTick).dt = s.dt := rfl
@[simp] theorem keyTick_st (s : State) : (s.keyTick).st = s.st := rfl
@[simp] theorem keyTick_cfg (s : State) : (s.keyTick).cfg = s.cfg := rfl
@[simp] theorem keyTick_draws (s : State) : (s.keyTick).draws = s.draws := rfl
@[simp] theorem keyTick_shown (s : State) : (s.keyTick).shown = s.shown := rfl
@[simp] theorem keyTick_inputs (s : State) : (s.keyTick).inputs = s.inputs := rfl

/-! ### setDt -/

@[simp] theorem setDt_v (s : State) (b : Byte) : (s.setDt b).v = s.v := rfl
@[simp] theorem setDt_i (s : State) (b : Byte) : (s.setDt b).i = s.i := rfl
@[simp] theorem setDt_pc (s : State) (b : Byte) : (s.setDt b).pc = s.pc := rfl
@[simp] theorem setDt_stack (s : State) (b : Byte) : (s.setDt b).stack = s.stack := rfl
@[simp] theorem setDt_sp (s : State) (b : Byte) : (s.setDt b).sp = s.sp := rfl
@[simp] theorem setDt_mem (s : State) (b : Byte) : (s.setDt b).mem = s.mem := rfl
@[simp] theorem setDt_fb (s : State) (b : Byte) : (s.setDt b).fb = s.fb := rfl
@[simp] theorem setDt_hexKeys (s : State) (b : Byte) : (s.setDt b).hexKeys = s.hexKeys := rfl
@[simp] theorem setDt_exitKey (s : State) (b : Byte) : (s.setDt b).exitKey = s.exitKey := rfl
@[simp] theorem setDt_wait (s : State) (b : Byte) : (s.setDt b).wait = s.wait := rfl
@[simp] theorem setDt_run (s : State) (b : Byte) : (s.setDt b).run = s.run := rfl
@[simp] theorem setDt_record (s : State) (b : Byte) : (s.setDt b).record = s.record := rfl
@[simp] theorem setDt_div (s : State) (b : Byte) : (s.setDt b).div = s.div := rfl
@[simp] theorem setDt_dt (s : State) (b : Byte) : (s.setDt b).dt = b := rfl
@[simp] theorem setDt_st (s : State) (b : Byte) : (s.setDt b).st = s.st := rfl
@[simp] theorem setDt_cfg (s : State) (b : Byte) : (s.setDt b).cfg = s.cfg := rfl
@[simp] theorem setDt_draws (s : State) (b : Byte) : (s.setDt b).draws = s.draws := rfl
@[simp] theorem setDt_shown (s : State) (b : Byte) : (s.setDt b).shown = s.shown := rfl
@[simp] theorem setDt_inputs (s : State) (b : Byte) : (s.setDt b).inputs = s.inputs := rfl

/-! ### setSt -/

@[simp] theorem setSt_v (s : State) (b : Byte) : (s.setSt b).v = s.v := rfl
@[simp] theorem setSt_i (s : State) (b : Byte) : (s.setSt b).i = s.i := rfl
@[simp] theorem setSt_pc (s : State) (b : Byte) : (s.setSt b).pc = s.pc := rfl
@[simp] theorem setSt_stack (s : State) (b : Byte) : (s.setSt b).stack = s.stack := rfl
@[simp] theorem setSt_sp (s : State) (b : Byte) : (s.setSt b).sp = s.sp := rfl
@[simp] theorem setSt_mem (s : State) (b : Byte) : (s.setSt b).mem = s.mem := rfl
@[simp] theorem setSt_fb (s : State) (b : Byte) : (s.setSt b).fb = s.fb := rfl
@[simp] theorem setSt_hexKeys (s : State) (b : Byte) : (s.setSt b).hexKeys = s.hexKeys := rfl
@[simp] theorem setSt_exitKey (s : State) (b : Byte) : (s.setSt b).exitKey = s.exitKey := rfl
@[simp] theorem setSt_wait (s : State) (b : Byte) : (s.setSt b).wait = s.wait := rfl
@[simp] theorem setSt_run (s : State) (b : Byte) : (s.setSt b).run = s.run := rfl
@[simp] theorem setSt_record (s : State) (b : Byte) : (s.setSt b).record = s.record := rfl
@[simp] theorem setSt_div (s : State) (b : Byte) : (s.setSt b).div = s.div := rfl
@[simp] theorem setSt_dt (s : State) (b : Byte) : (s.setSt b).dt = s.dt := rfl
@[simp] theorem setSt_st (s : State) (b : Byte) : (s.setSt b).st = b := rfl
@[simp] theorem setSt_cfg (s : State) (b : Byte) : (s.setSt b).cfg = s.cfg := rfl
@[simp] theorem setSt_draws (s : State) (b : Byte) : (s.setSt b).draws = s.draws := rfl
@[simp] theorem setSt_shown (s : State) (b : Byte) : (s.setSt b).shown = s.shown := rfl
@[simp] theorem setSt_inputs (s : State) (b : Byte) : (s.setSt b).inputs = s.inputs := rfl

/-! ### setInputs -/

@[simp] theorem setInputs_v (s : State) (es : List Event) : (s.setInputs es).v = s.v := rfl
@[simp] theorem setInputs_i (s : State) (es : List Event) : (s.setInputs es).i = s.i := rfl
@[simp] theorem setInputs_pc (s : State) (es : List Event) : (s.setInputs es).pc = s.pc := rfl
@[simp] theorem setInputs_stack (s : State) (es : List Event) : (s.setInputs es).stack = s.stack := rfl
@[simp] theorem setInputs_sp (s : State) (es : List Event) : (s.setInputs es).sp = s.sp := rfl
@[simp] theorem setInputs_mem (s : State) (es : List Event) : (s.setInputs es).mem = s.mem := rfl
@[simp] theorem setInputs_fb (s : State) (es : List Event) : (s.setInputs es).fb = s.fb := rfl
@[simp] theorem setInputs_hexKeys (s : State) (es : List Event) : (s.setInputs es).hexKeys = s.hexKeys := rfl
@[simp] theorem setInputs_exitKey (s : State) (es : List Event) : (s.setInputs es).exitKey = s.exitKey := rfl
@[simp] theorem setInputs_wait (s : State) (es : List Event) : (s.setInputs es).wait = s.wait := rfl
@[simp] theorem setInputs_run (s : State) (es : List Event) : (s.setInputs es).run = s.run := rfl
@[simp] theorem setInputs_record (s : State) (es : List Event) : (s.setInputs es).record = s.record := rfl
@[simp] theorem setInputs_div (s : State) (es : List Event) : (s.setInputs es).div = s.div := rfl
@[simp] theorem setInputs_dt (s : State) (es : List Event) : (s.setInputs es).dt = s.dt := rfl
@[simp] theorem setInputs_st (s : State) (es : List Event) : (s.setInputs es).st = s.st := rfl
@[simp] theorem setInputs_cfg (s : State) (es : List Event) : (s.setInputs es).cfg = s.cfg := rfl
@[simp] theorem setInputs_draws (s : State) (es : List Event) : (s.setInputs es).draws = s.draws := rfl
@[simp] theorem setInputs_shown (s : State) (es : List Event) : (s.setInputs es).shown = s.shown := rfl
@[simp] theorem setInputs_inputs (s : State) (es : List Event) : (s.setInputs es).inputs = es := rfl

/-! ### incrDiv -/

@[simp] theorem incrDiv_v (s : State) : (s.incrDiv).v = s.v := rfl
@[simp] theorem incrDiv_i (s : State) : (s.incrDiv).i = s.i := rfl
@[simp] theorem incrDiv_pc (s : State) : (s.incrDiv).pc = s.pc := rfl
@[simp] theorem incrDiv_stack (s : State) : (s.incrDiv).stack = s.stack := rfl
@[simp] theorem incrDiv_sp (s : State) : (s.incrDiv).sp = s.sp := rfl
@[simp] theorem incrDiv_mem (s : State) : (s.incrDiv).mem = s.mem := rfl
@[simp] theorem incrDiv_fb (s : State) : (s.incrDiv).fb = s.fb := rfl
@[simp] theorem incrDiv_hexKeys (s : State) : (s.incrDiv).hexKeys = s.hexKeys := rfl
@[simp] theorem incrDiv_exitKey (s : State) : (s.incrDiv).exitKey = s.exitKey := rfl
@[simp] theorem incrDiv_wait (s : State) : (s.incrDiv).wait = s.wait := rfl
@[simp] theorem incrDiv_run (s : State) : (s.incrDiv).run = s.run := rfl
@[simp] theorem incrDiv_record (s : State) : (s.incrDiv).record = s.record := rfl
@[simp] theorem incrDiv_div (s : State) : (s.incrDiv).div = s.div + 1 := rfl
@[simp] theorem incrDiv_dt (s : State) : (s.incrDiv).dt = s.dt := rfl
@[simp] theorem incrDiv_st (s : State) : (s.incrDiv).st = s.st := rfl
@[simp] theorem incrDiv_cfg (s : State) : (s.incrDiv).cfg = s.cfg := rfl
@[simp] theorem incrDiv_draws (s : State) : (s.incrDiv).draws = s.draws := rfl
@[simp] theorem incrDiv_shown (s : State) : (s.incrDiv).shown = s.shown := rfl
@[simp] theorem incrDiv_inputs (s : State) : (s.incrDiv).inputs = s.inputs := rfl

/-! ### issueFrame -/

@[simp] theorem issueFrame_v (s : State) : (s.issueFrame).v = s.v := rfl
@[simp] theorem issueFrame_i (s : State) : (s.issueFrame).i = s.i := rfl
@[simp] theorem issueFrame_pc (s : State) : (s.issueFrame).pc = s.pc := rfl
@[simp] theorem issueFrame_stack (s : State) : (s.issueFrame).stack = s.stack := rfl
@[simp] theorem issueFrame_sp (s : State) : (s.issueFrame).sp = s.sp := rfl
@[simp] theorem issueFrame_mem (s : State) : (s.issueFrame).mem = s.mem := rfl
@[simp] theorem issueFrame_fb (s : State) : (s.issueFrame).fb = s.fb := rfl
@[simp] theorem issueFrame_hexKeys (s : State) : (s.issueFrame).hexKeys = s.hexKeys := rfl
@[simp] theorem issueFrame_exitKey (s : State) : (s.issueFrame).exitKey = s.exitKey := rfl
@[simp] theorem issueFrame_wait (s : State) : (s.issueFrame).wait = s.wait := rfl
@[simp] theorem issueFrame_run (s : State) : (s.issueFrame).run = s.run := rfl
@[simp] theorem issueFrame_record (s : State) : (s.issueFrame).record = s.record := rfl
@[simp] theorem issueFrame_div (s : State) : (s.issueFrame).div = 0 := rfl
@[simp] theorem issueFrame_dt (s : State) : (s.issueFrame).dt = s.dt := rfl
@[simp] theorem issueFrame_st (s : State) : (s.issueFrame).st = s.st := rfl
@[simp] theorem issueFrame_cfg (s : State) : (s.issueFrame).cfg = s.cfg := rfl
@[simp] theorem issueFrame_draws (s : State) : (s.issueFrame).draws = s.draws := rfl
@[simp] theorem issueFrame_shown (s : State) : (s.issueFrame).shown = s.shown := rfl
@[simp] theorem issueFrame_inputs (s : State) : (s.issueFrame).inputs = .frameTick :: s.inputs := rfl

/-! ### writeResultAndFlag -/

@[simp] theorem writeResultAndFlag_i (s : State) (x : Nibble) (res flag : Byte) : (s.writeResultAndFlag x res flag).i = s.i := by unfold State.writeResultAndFlag; split <;> rfl
@[simp] theorem writeResultAndFlag_pc (s : State) (x : Nibble) (res flag : Byte) : (s.writeResultAndFlag x res flag).pc = s.pc := by unfold State.writeResultAndFlag; split <;> rfl
@[simp] theorem writeResultAndFlag_stack (s : State) (x : Nibble) (res flag : Byte) : (s.writeResultAndFlag x res flag).stack = s.stack := by unfold State.writeResultAndFlag; split <;> rfl
@[simp] theorem writeResultAndFlag_sp (s : State) (x : Nibble) (res flag : Byte) : (s.writeResultAndFlag x res flag).sp = s.sp := by unfold State.writeResultAndFlag; split <;> rfl
@[simp] theorem writeResultAndFlag_mem (s : State) (x : Nibble) (res flag : Byte) : (s.writeResultAndFlag x res flag).mem = s.mem := by unfold State.writeResultAndFlag; split <;> rfl
@[simp] theorem writeResultAndFlag_fb (s : State) (x : Nibble) (res flag : Byte) : (s.writeResultAndFlag x res flag).fb = s.fb := by unfold State.writeResultAndFlag; split <;> rfl
@[simp] theorem writeResultAndFlag_hexKeys (s : State) (x : Nibble) (res flag : Byte) : (s.writeResultAndFlag x res flag).hexKeys = s.hexKeys := by unfold State.writeResultAndFlag; split <;> rfl
@[simp] theorem writeResultAndFlag_exitKey (s : State) (x : Nibble) (res flag : Byte) : (s.writeResultAndFlag x res flag).exitKey = s.exitKey := by unfold State.writeResultAndFlag; split <;> rfl
@[simp] theorem writeResultAndFlag_wait (s : State) (x : Nibble) (res flag : Byte) : (s.writeResultAndFlag x res flag).wait = s.wait := by unfold State.writeResultAndFlag; split <;> rfl
@[simp] theorem writeResultAndFlag_run (s : State) (x : Nibble) (res flag : Byte) : (s.writeResultAndFlag x res flag).run = s.run := by unfold State.writeResultAndFlag; split <;> rfl
@[simp] theorem writeResultAndFlag_record (s : State) (x : Nibble) (res flag : Byte) : (s.writeResultAndFlag x res flag).record = s.record := by unfold State.writeResultAndFlag; split <;> rfl
@[simp] theorem writeResultAndFlag_div (s : State) (x : Nibble) (res flag : Byte) : (s.writeResultAndFlag x res flag).div = s.div := by unfold State.writeResultAndFlag; split <;> rfl
@[simp] theorem writeResultAndFlag_dt (s : State) (x : Nibble) (res flag : Byte) : (s.writeResultAndFlag x res flag).dt = s.dt := by unfold State.writeResultAndFlag; split <;> rfl
@[simp] theorem writeResultAndFlag_st (s : State) (x : Nibble) (res flag : Byte) : (s.writeResultAndFlag x res flag).st = s.st := by unfold State.writeResultAndFlag; split <;> rfl
@[simp] theorem writeResultAndFlag_cfg (s : State) (x : Nibble) (res flag : Byte) : (s.writeResultAndFlag x res flag).cfg = s.cfg := by unfold State.writeResultAndFlag; split <;> rfl
@[simp] theorem writeResultAndFlag_draws (s : State) (x : Nibble) (res flag : Byte) : (s.writeResultAndFlag x res flag).draws = s.draws := by unfold State.writeResultAndFlag; split <;> rfl
@[simp] theorem writeResultAndFlag_shown (s : State) (x : Nibble) (res flag : Byte) : (s.writeResultAndFlag x res flag).shown = s.shown := by unfold State.writeResultAndFlag; split <;> rfl
@[simp] theorem writeResultAndFlag_inputs (s : State) (x : Nibble) (res flag : Byte) : (s.writeResultAndFlag x res flag).inputs = s.inputs := by unfold State.writeResultAndFlag; split <;> rfl

/-! ### startCounter -/

@[simp] theorem startCounter_v (s : State) (k : Key) : (s.startCounter k).v = s.v := by cases k <;> rfl
@[simp] theorem startCounter_i (s : State) (k : Key) : (s.startCounter k).i = s.i := by cases k <;> rfl
@[simp] theorem startCounter_pc (s : State) (k : Key) : (s.startCounter k).pc = s.pc := by cases k <;> rfl
@[simp] theorem startCounter_stack (s : State) (k : Key) : (s.startCounter k).stack = s.stack := by cases k <;> rfl
@[simp] theorem startCounter_sp (s : State) (k : Key) : (s.startCounter k).sp = s.sp := by cases k <;> rfl
@[simp] theorem startCounter_mem (s : State) (k : Key) : (s.startCounter k).mem = s.mem := by cases k <;> rfl
@[simp] theorem startCounter_fb (s : State) (k : Key) : (s.startCounter k).fb = s.fb := by cases k <;> rfl
@[simp] theorem startCounter_wait (s : State) (k : Key) : (s.startCounter k).wait = s.wait := by cases k <;> rfl
@[simp] theorem startCounter_run (s : State) (k : Key) : (s.startCounter k).run = s.run := by cases k <;> rfl
@[simp] theorem startCounter_record (s : State) (k : Key) : (s.startCounter k).record = s.record := by cases k <;> rfl
@[simp] theorem startCounter_div (s : State) (k : Key) : (s.startCounter k).div = s.div := by cases k <;> rfl
@[simp] theorem startCounter_dt (s : State) (k : Key) : (s.startCounter k).dt = s.dt := by cases k <;> rfl
@[simp] theorem startCounter_st (s : State) (k : Key) : (s.startCounter k).st = s.st := by cases k <;> rfl
@[simp] theorem startCounter_cfg (s : State) (k : Key) : (s.startCounter k).cfg = s.cfg := by cases k <;> rfl
@[simp] theorem startCounter_draws (s : State) (k : Key) : (s.startCounter k).draws = s.draws := by cases k <;> rfl
@[simp] theorem startCounter_shown (s : State) (k : Key) : (s.startCounter k).shown = s.shown := by cases k <;> rfl
@[simp] theorem startCounter_inputs (s : State) (k : Key) : (s.startCounter k).inputs = s.inputs := by cases k <;> rfl

/-! ### deliver -/

@[simp] theorem deliver_v (s : State) (k : Key) : (s.deliver k).v = s.v := by cases k; (simp only [State.deliver]; split <;> rfl); rfl
@[simp] theorem deliver_i (s : State) (k : Key) : (s.deliver k).i = s.i := by cases k; (simp only [State.deliver]; split <;> rfl); rfl
@[simp] theorem deliver_pc (s : State) (k : Key) : (s.deliver k).pc = s.pc := by cases k; (simp only [State.deliver]; split <;> rfl); rfl
@[simp] theorem deliver_stack (s : State) (k : Key) : (s.deliver k).stack = s.stack := by cases k; (simp only [State.deliver]; split <;> rfl); rfl
@[simp] theorem deliver_sp (s : State) (k : Key) : (s.deliver k).sp = s.sp := by cases k; (simp only [State.deliver]; split <;> rfl); rfl
@[simp] theorem deliver_mem (s : State) (k : Key) : (s.deliver k).mem = s.mem := by cases k; (simp only [State.deliver]; split <;> rfl); rfl
@[simp] theorem deliver_fb (s : State) (k : Key) : (s.deliver k).fb = s.fb := by cases k; (simp only [State.deliver]; split <;> rfl); rfl
@[simp] theorem deliver_hexKeys (s : State) (k : Key) : (s.deliver k).hexKeys = s.hexKeys := by cases k; (simp only [State.deliver]; split <;> rfl); rfl
@[simp] theorem deliver_exitKey (s : State) (k : Key) : (s.deliver k).exitKey = s.exitKey := by cases k; (simp only [State.deliver]; split <;> rfl); rfl
@[simp] theorem deliver_run (s : State) (k : Key) : (s.deliver k).run = s.run := by cases k; (simp only [State.deliver]; split <;> rfl); rfl
@[simp] theorem deliver_record (s : State) (k : Key) : (s.deliver k).record = s.record := by cases k; (simp only [State.deliver]; split <;> rfl); rfl
@[simp] theorem deliver_div (s : State) (k : Key) : (s.deliver k).div = s.div := by cases k; (simp only [State.deliver]; split <;> rfl); rfl
@[simp] theorem deliver_dt (s : State) (k : Key) : (s.deliver k).dt = s.dt := by cases k; (simp only [State.deliver]; split <;> rfl); rfl
@[simp] theorem deliver_st (s : State) (k : Key) : (s.deliver k).st = s.st := by cases k; (simp only [State.deliver]; split <;> rfl); rfl
@[simp] theorem deliver_cfg (s : State) (k : Key) : (s.deliver k).cfg = s.cfg := by cases k; (simp only [State.deliver]; split <;> rfl); rfl
@[simp] theorem deliver_draws (s : State) (k : Key) : (s.deliver k).draws = s.draws := by cases k; (simp only [State.deliver]; split <;> rfl); rfl
@[simp] theorem deliver_shown (s : State) (k : Key) : (s.deliver k).shown = s.shown := by cases k; (simp only [State.deliver]; split <;> rfl); rfl
@[simp] theorem deliver_inputs (s : State) (k : Key) : (s.deliver k).inputs = s.inputs := by cases k; (simp only [State.deliver]; split <;> rfl); rfl

/-! ### registerPress -/

@[simp] theorem registerPress_v (s : State) (k : Key) : (s.registerPress k).v = s.v := by simp [State.registerPress]
@[simp] theorem registerPress_i (s : State) (k : Key) : (s.registerPress k).i = s.i := by simp [State.registerPress]
@[simp] theorem registerPress_pc (s : State) (k : Key) : (s.registerPress k).pc = s.pc := by simp [State.registerPress]
@[simp] theorem registerPress_stack (s : State) (k : Key) : (s.registerPress k).stack = s.stack := by simp [State.registerPress]
@[simp] theorem registerPress_sp (s : State) (k : Key) : (s.registerPress k).sp = s.sp := by simp [State.registerPress]
@[simp] theorem registerPress_mem (s : State) (k : Key) : (s.registerPress k).mem = s.mem := by simp [State.registerPress]
@[simp] theorem registerPress_fb (s : State) (k : Key) : (s.registerPress k).fb = s.fb := by simp [State.registerPress]
@[simp] theorem registerPress_run (s : State) (k : Key) : (s.registerPress k).run = s.run := by simp [State.registerPress]
@[simp] theorem registerPress_record (s : State) (k : Key) : (s.registerPress k).record = s.record := by simp [State.registerPress]
@[simp] theorem registerPress_div (s : State) (k : Key) : (s.registerPress k).div = s.div := by simp [State.registerPress]
@[simp] theorem registerPress_dt (s : State) (k : Key) : (s.registerPress k).dt = s.dt := by simp [State.registerPress]
@[simp] theorem registerPress_st (s : State) (k : Key) : (s.registerPress k).st = s.st := by simp [State.registerPress]
@[simp] theorem registerPress_cfg (s : State) (k : Key) : (s.registerPress k).cfg = s.cfg := by simp [State.registerPress]
@[simp] theorem registerPress_draws (s : State) (k : Key) : (s.registerPress k).draws = s.draws := by simp [State.registerPress]
@[simp] theorem registerPress_shown (s : State) (k : Key) : (s.registerPress k).shown = s.shown := by simp [State.registerPress]
@[simp] theorem registerPress_inputs (s : State) (k : Key) : (s.registerPress k).inputs = s.inputs := by simp [State.registerPress]

/-! ### timersTick -/

@[simp] theorem timersTick_v (s : State) : (s.timersTick).v = s.v := by unfold State.timersTick; split <;> rfl
@[simp] theorem timersTick_i (s : State) : (s.timersTick).i = s.i := by unfold State.timersTick; split <;> rfl
@[simp] theorem timersTick_pc (s : State) : (s.timersTick).pc = s.pc := by unfold State.timersTick; split <;> rfl
@[simp] theorem timersTick_stack (s : State) : (s.timersTick).stack = s.stack := by unfold State.timersTick; split <;> rfl
@[simp] theorem timersTick_sp (s : State) : (s.timersTick).sp = s.sp := by unfold State.timersTick; split <;> rfl
@[simp] theorem timersTick_mem (s : State) : (s.timersTick).mem = s.mem := by unfold State.timersTick; split <;> rfl
@[simp] theorem timersTick_fb (s : State) : (s.timersTick).fb = s.fb := by unfold State.timersTick; split <;> rfl
@[simp] theorem timersTick_hexKeys (s : State) : (s.timersTick).hexKeys = s.hexKeys := by unfold State.timersTick; split <;> rfl
@[simp] theorem timersTick_exitKey (s : State) : (s.timersTick).exitKey = s.exitKey := by unfold State.timersTick; split <;> rfl
@[simp] theorem timersTick_wait (s : State) : (s.timersTick).wait = s.wait := by unfold State.timersTick; split <;> rfl
@[simp] theorem timersTick_run (s : State) : (s.timersTick).run = s.run := by unfold State.timersTick; split <;> rfl
@[simp] theorem timersTick_record (s : State) : (s.timersTick).record = s.record := by unfold State.timersTick; split <;> rfl
@[simp] theorem timersTick_div (s : State) : (s.timersTick).div = s.div := by unfold State.timersTick; split <;> rfl
@[simp] theorem timersTick_cfg (s : State) : (s.timersTick).cfg = s.cfg := by unfold State.timersTick; split <;> rfl
@[simp] theorem timersTick_draws (s : State) : (s.timersTick).draws = s.draws := by unfold State.timersTick; split <;> rfl
@[simp] theorem timersTick_shown (s : State) : (s.timersTick).shown = s.shown := by unfold State.timersTick; split <;> rfl
@[simp] theorem timersTick_inputs (s : State) : (s.timersTick).inputs = s.inputs := by unfold State.timersTick; split <;> rfl

/-! ### frameTick -/

@[simp] theorem frameTick_v (s : State) : (s.frameTick).v = s.v := by simp [State.frameTick]
@[simp] theorem frameTick_i (s : State) : (s.frameTick).i = s.i := by simp [State.frameTick]
@[simp] theorem frameTick_pc (s : State) : (s.frameTick).pc = s.pc := by simp [State.frameTick]
@[simp] theorem frameTick_stack (s : State) : (s.frameTick).stack = s.stack := by simp [State.frameTick]
@[simp] theorem frameTick_sp (s : State) : (s.frameTick).sp = s.sp := by simp [State.frameTick]
@[simp] theorem frameTick_mem (s : State) : (s.frameTick).mem = s.mem := by simp [State.frameTick]
@[simp] theorem frameTick_fb (s : State) : (s.frameTick).fb = s.fb := by simp [State.frameTick]
@[simp] theorem frameTick_wait (s : State) : (s.frameTick).wait = s.wait := by simp [State.frameTick]
@[simp] theorem frameTick_run (s : State) : (s.frameTick).run = s.run := by simp [State.frameTick]
@[simp] theorem frameTick_record (s : State) : (s.frameTick).record = s.record := by simp [State.frameTick]
@[simp] theorem frameTick_div (s : State) : (s.frameTick).div = s.div := by simp [State.frameTick]
@[simp] theorem frameTick_cfg (s : State) : (s.frameTick).cfg = s.cfg := by simp [State.frameTick]
@[simp] theorem frameTick_draws (s : State) : (s.frameTick).draws = s.draws := by simp [State.frameTick]
@[simp] theorem frameTick_inputs (s : State) : (s.frameTick).inputs = s.inputs := by simp [State.frameTick]

/-! ### exitCheck -/

@[simp] theorem exitCheck_v (s : State) : (s.exitCheck).v = s.v := by unfold State.exitCheck; split <;> rfl
@[simp] theorem exitCheck_i (s : State) : (s.exitCheck).i = s.i := by unfold State.exitCheck; split <;> rfl
@[simp] theorem exitCheck_pc (s : State) : (s.exitCheck).pc = s.pc := by unfold State.exitCheck; split <;> rfl
@[simp] theorem exitCheck_stack (s : State) : (s.exitCheck).stack = s.stack := by unfold State.exitCheck; split <;> rfl
@[simp] theorem exitCheck_sp (s : State) : (s.exitCheck).sp = s.sp := by unfold State.exitCheck; split <;> rfl
@[simp] theorem exitCheck_mem (s : State) : (s.exitCheck).mem = s.mem := by unfold State.exitCheck; split <;> rfl
@[simp] theorem exitCheck_fb (s : State) : (s.exitCheck).fb = s.fb := by unfold State.exitCheck; split <;> rfl
@[simp] theorem exitCheck_hexKeys (s : State) : (s.exitCheck).hexKeys = s.hexKeys := by unfold State.exitCheck; split <;> rfl
@[simp] theorem exitCheck_exitKey (s : State) : (s.exitCheck).exitKey = s.exitKey := by unfold State.exitCheck; split <;> rfl
@[simp] theorem exitCheck_wait (s : State) : (s.exitCheck).wait = s.wait := by unfold State.exitCheck; split <;> rfl
@[simp] theorem exitCheck_record (s : State) : (s.exitCheck).record = s.record := by unfold State.exitCheck; split <;> rfl
@[simp] theorem exitCheck_div (s : State) : (s.exitCheck).div = s.div := by unfold State.exitCheck; split <;> rfl
@[simp] theorem exitCheck_dt (s : State) : (s.exitCheck).dt = s.dt := by unfold State.exitCheck; split <;> rfl
@[simp] theorem exitCheck_st (s : State) : (s.exitCheck).st = s.st := by unfold State.exitCheck; split <;> rfl
@[simp] theorem exitCheck_cfg (s : State) : (s.exitCheck).cfg = s.cfg := by unfold State.exitCheck; split <;> rfl
@[simp] theorem exitCheck_draws (s : State) : (s.exitCheck).draws = s.draws := by unfold State.exitCheck; split <;> rfl
@[simp] theorem exitCheck_shown (s : State) : (s.exitCheck).shown = s.shown := by unfold State.exitCheck; split <;> rfl
@[simp] theorem exitCheck_inputs (s : State) : (s.exitCheck).inputs = s.inputs := by unfold State.exitCheck; split <;> rfl

/-! ### pressBetween -/

@[simp] theorem foldl_registerPress_v (ks : List Key) (s : State) :
    (ks.foldl State.registerPress s).v = s.v := by
  induction ks generalizing s with
  | nil => rfl
  | cons k ks ih => rw [List.foldl_cons, ih, registerPress_v]
@[simp] theorem foldl_registerPress_i (ks : List Key) (s : State) :
    (ks.foldl State.registerPress s).i = s.i := by
  induction ks generalizing s with
  | nil => rfl
  | cons k ks ih => rw [List.foldl_cons, ih, registerPress_i]
@[simp] theorem foldl_registerPress_pc (ks : List Key) (s : State) :
    (ks.foldl State.registerPress s).pc = s.pc := by
  induction ks generalizing s with
  | nil => rfl
  | cons k ks ih => rw [List.foldl_cons, ih, registerPress_pc]
@[simp] theorem foldl_registerPress_stack (ks : List Key) (s : State) :
    (ks.foldl State.registerPress s).stack = s.stack := by
  induction ks generalizing s with
  | nil => rfl
  | cons k ks ih => rw [List.foldl_cons, ih, registerPress_stack]
@[simp] theorem foldl_registerPress_sp (ks : List Key) (s : State) :
    (ks.foldl State.registerPress s).sp = s.sp := by
  induction ks generalizing s with
  | nil => rfl
  | cons k ks ih => rw [List.foldl_cons, ih, registerPress_sp]
@[simp] theorem foldl_registerPress_mem (ks : List Key) (s : State) :
    (ks.foldl State.registerPress s).mem = s.mem := by
  induction ks generalizing s with
  | nil => rfl
  | cons k ks ih => rw [List.foldl_cons, ih, registerPress_mem]
@[simp] theorem foldl_registerPress_fb (ks : List Key) (s : State) :
    (ks.foldl State.registerPress s).fb = s.fb := by
  induction ks generalizing s with
  | nil => rfl
  | cons k ks ih => rw [List.foldl_cons, ih, registerPress_fb]
@[simp] theorem foldl_registerPress_run (ks : List Key) (s : State) :
    (ks.foldl State.registerPress s).run = s.run := by
  induction ks generalizing s with
  | nil => rfl
  | cons k ks ih => rw [List.foldl_cons, ih, registerPress_run]
@[simp] theorem foldl_registerPress_record (ks : List Key) (s : State) :
    (ks.foldl State.registerPress s).record = s.record := by
  induction ks generalizing s with
  | nil => rfl
  | cons k ks ih => rw [List.foldl_cons, ih, registerPress_record]
@[simp] theorem foldl_registerPress_div (ks : List Key) (s : State) :
    (ks.foldl State.registerPress s).div = s.div := by
  induction ks generalizing s with
  | nil => rfl
  | cons k ks ih => rw [List.foldl_cons, ih, registerPress_div]
@[simp] theorem foldl_registerPress_dt (ks : List Key) (s : State) :
    (ks.foldl State.registerPress s).dt = s.dt := by
  induction ks generalizing s with
  | nil => rfl
  | cons k ks ih => rw [List.foldl_cons, ih, registerPress_dt]
@[simp] theorem foldl_registerPress_st (ks : List Key) (s : State) :
    (ks.foldl State.registerPress s).st = s.st := by
  induction ks generalizing s with
  | nil => rfl
  | cons k ks ih => rw [List.foldl_cons, ih, registerPress_st]
@[simp] theorem foldl_registerPress_cfg (ks : List Key) (s : State) :
    (ks.foldl State.registerPress s).cfg = s.cfg := by
  induction ks generalizing s with
  | nil => rfl
  | cons k ks ih => rw [List.foldl_cons, ih, registerPress_cfg]
@[simp] theorem foldl_registerPress_draws (ks : List Key) (s : State) :
    (ks.foldl State.registerPress s).draws = s.draws := by
  induction ks generalizing s with
  | nil => rfl
  | cons k ks ih => rw [List.foldl_cons, ih, registerPress_draws]
@[simp] theorem foldl_registerPress_shown (ks : List Key) (s : State) :
    (ks.foldl State.registerPress s).shown = s.shown := by
  induction ks generalizing s with
  | nil => rfl
  | cons k ks ih => rw [List.foldl_cons, ih, registerPress_shown]
@[simp] theorem foldl_registerPress_inputs (ks : List Key) (s : State) :
    (ks.foldl State.registerPress s).inputs = s.inputs := by
  induction ks generalizing s with
  | nil => rfl
  | cons k ks ih => rw [List.foldl_cons, ih, registerPress_inputs]

@[simp] theorem pressBetween_v (s : State) (ks : List Key) : (s.pressBetween ks).v = s.v := by unfold State.pressBetween; split <;> simp
@[simp] theorem pressBetween_i (s : State) (ks : List Key) : (s.pressBetween ks).i = s.i := by unfold State.pressBetween; split <;> simp
@[simp] theorem pressBetween_pc (s : State) (ks : List Key) : (s.pressBetween ks).pc = s.pc := by unfold State.pressBetween; split <;> simp
@[simp] theorem pressBetween_stack (s : State) (ks : List Key) : (s.pressBetween ks).stack = s.stack := by unfold State.pressBetween; split <;> simp
@[simp] theorem pressBetween_sp (s : State) (ks : List Key) : (s.pressBetween ks).sp = s.sp := by unfold State.pressBetween; split <;> simp
@[simp] theorem pressBetween_mem (s : State) (ks : List Key) : (s.pressBetween ks).mem = s.mem := by unfold State.pressBetween; split <;> simp
@[simp] theorem pressBetween_fb (s : State) (ks : List Key) : (s.pressBetween ks).fb = s.fb := by unfold State.pressBetween; split <;> simp
@[simp] theorem pressBetween_run (s : State) (ks : List Key) : (s.pressBetween ks).run = s.run := by unfold State.pressBetween; split <;> simp
@[simp] theorem pressBetween_record (s : State) (ks : List Key) : (s.pressBetween ks).record = s.record := by unfold State.pressBetween; split <;> simp
@[simp] theorem pressBetween_div (s : State) (ks : List Key) : (s.pressBetween ks).div = s.div := by unfold State.pressBetween; split <;> simp
@[simp] theorem pressBetween_dt (s : State) (ks : List Key) : (s.pressBetween ks).dt = s.dt := by unfold State.pressBetween; split <;> simp
@[simp] theorem pressBetween_st (s : State) (ks : List Key) : (s.pressBetween ks).st = s.st := by unfold State.pressBetween; split <;> simp
@[simp] theorem pressBetween_cfg (s : State) (ks : List Key) : (s.pressBetween ks).cfg = s.cfg := by unfold State.pressBetween; split <;> simp
@[simp] theorem pressBetween_draws (s : State) (ks : List Key) : (s.pressBetween ks).draws = s.draws := by unfold State.pressBetween; split <;> simp
@[simp] theorem pressBetween_shown (s : State) (ks : List Key) : (s.pressBetween ks).shown = s.shown := by unfold State.pressBetween; split <;> simp
@[simp] theorem pressBetween_inputs (s : State) (ks : List Key) : (s.pressBetween ks).inputs = s.inputs := by unfold State.pressBetween; split <;> simp

/-! ### countTick -/

@[simp] theorem countTick_v (s : State) : (s.countTick).v = s.v := by unfold State.countTick; split <;> [split; skip] <;> rfl
@[simp] theorem countTick_i (s : State) : (s.countTick).i = s.i := by unfold State.countTick; split <;> [split; skip] <;> rfl
@[simp] theorem countTick_pc (s : State) : (s.countTick).pc = s.pc := by unfold State.countTick; split <;> [split; skip] <;> rfl
@[simp] theorem countTick_stack (s : State) : (s.countTick).stack = s.stack := by unfold State.countTick; split <;> [split; skip] <;> rfl
@[simp] theorem countTick_sp (s : State) : (s.countTick).sp = s.sp := by unfold State.countTick; split <;> [split; skip] <;> rfl
@[simp] theorem countTick_mem (s : State) : (s.countTick).mem = s.mem := by unfold State.countTick; split <;> [split; skip] <;> rfl
@[simp] theorem countTick_fb (s : State) : (s.countTick).fb = s.fb := by unfold State.countTick; split <;> [split; skip] <;> rfl
@[simp] theorem countTick_hexKeys (s : State) : (s.countTick).hexKeys = s.hexKeys := by unfold State.countTick; split <;> [split; skip] <;> rfl
@[simp] theorem countTick_exitKey (s : State) : (s.countTick).exitKey = s.exitKey := by unfold State.countTick; split <;> [split; skip] <;> rfl
@[simp] theorem countTick_wait (s : State) : (s.countTick).wait = s.wait := by unfold State.countTick; split <;> [split; skip] <;> rfl
@[simp] theorem countTick_run (s : State) : (s.countTick).run = s.run := by unfold State.countTick; split <;> [split; skip] <;> rfl
@[simp] theorem countTick_record (s : State) : (s.countTick).record = s.record := by unfold State.countTick; split <;> [split; skip] <;> rfl
@[simp] theorem countTick_dt (s : State) : (s.countTick).dt = s.dt := by unfold State.countTick; split <;> [split; skip] <;> rfl
@[simp] theorem countTick_st (s : State) : (s.countTick).st = s.st := by unfold State.countTick; split <;> [split; skip] <;> rfl
@[simp] theorem countTick_cfg (s : State) : (s.countTick).cfg = s.cfg := by unfold State.countTick; split <;> [split; skip] <;> rfl
@[simp] theorem countTick_draws (s : State) : (s.countTick).draws = s.draws := by unfold State.countTick; split <;> [split; skip] <;> rfl
@[simp] theorem countTick_shown (s : State) : (s.countTick).shown = s.shown := by unfold State.countTick; split <;> [split; skip] <;> rfl

end Sys2Proof.Machine
end

