-- ==== Sys2Proof/Laws/Ops.lean ====
section
/-! SUPPORT. One lemma per shared operation that says everything it can do: registers, stack, stores, faults,
fetch, the checked accesses, the result and flag write, the key operations, the transition. -/

namespace Sys2Proof.Machine

/-! ### Registers -/

@[simp] theorem readV_writeV_same (s : State) (x : Nibble) (b : Byte) : (s.writeV x b).readV x = b := by
  simp [State.readV]

@[simp] theorem readV_writeV_ne (s : State) {x r : Nibble} (b : Byte) (h : r ≠ x) :
    (s.writeV x b).readV r = s.readV r := by
  have h' : x.toNat ≠ r.toNat := fun e => h (BitVec.eq_of_toNat_eq e.symm)
  simp [State.readV, h']

/-- A register read looks only at the registers. -/
theorem readV_congr {s t : State} (h : t.v = s.v) (x : Nibble) : t.readV x = s.readV x := by
  simp only [State.readV, h]

/-- A byte read looks only at the memory. -/
theorem readByte_congr {s t : State} (h : t.mem = s.mem) (a : Nat) : t.readByte a = s.readByte a := by
  simp only [State.readByte, h]

/-- A key's counter looks only at the counters. -/
theorem counter_congr {s t : State} (h : t.hexKeys = s.hexKeys) (h' : t.exitKey = s.exitKey) (k : Key) :
    t.counter k = s.counter k := by
  cases k <;> simp only [State.counter, h, h']

/-- What R133's two writes leave in each register. -/
theorem readV_writeResultAndFlag (s : State) (x r : Nibble) (res flag : Byte) :
    (s.writeResultAndFlag x res flag).readV r =
      if r = vf ∧ r = x then (if s.cfg.flagLast then flag else res)
      else if r = vf then flag else if r = x then res else s.readV r := by
  unfold State.writeResultAndFlag
  by_cases hl : s.cfg.flagLast = true
  · rw [if_pos hl, if_pos hl]
    by_cases h1 : r = vf
    · subst h1; simp
    · by_cases h2 : r = x
      · subst h2; simp [readV_writeV_ne _ _ h1, h1]
      · simp [readV_writeV_ne _ _ h1, readV_writeV_ne _ _ h2, h1, h2]
  · rw [if_neg hl, if_neg hl]
    by_cases h2 : r = x
    · subst h2
      by_cases h1 : r = vf <;> simp [h1]
    · by_cases h1 : r = vf
      · subst h1; simp [readV_writeV_ne _ _ h2, h2]
      · simp [readV_writeV_ne _ _ h1, readV_writeV_ne _ _ h2, h1, h2]

/-! ### Call stack -/

/-- push answers a state exactly when sp < 16: the entry at sp is the value, sp is one more, nothing else. -/
theorem push_eq_some {s t : State} {w : Word} :
    s.push w = some t ↔ ∃ h : s.sp.val < 16,
      t = { s with stack := s.stack.set s.sp.val w h, sp := ⟨s.sp.val + 1, by omega⟩ } := by
  unfold State.push
  split
  · next h => simp [h, eq_comm]
  · next h => simp [h]

theorem push_eq_none {s : State} {w : Word} : s.push w = none ↔ s.sp.val = 16 := by
  unfold State.push
  have := s.sp.isLt
  split
  · next h => simp; omega
  · next h => simp; omega

/-- pop answers the top entry and the state with sp one less exactly when sp > 0. -/
theorem pop_eq_some {s t : State} {w : Word} :
    s.pop = some (w, t) ↔ s.sp.val ≠ 0 ∧ w = s.stack[s.sp.val - 1] ∧
      t = { s with sp := ⟨s.sp.val - 1, by omega⟩ } := by
  unfold State.pop
  split
  · next h => simp [h]
  · next h => simp [h, eq_comm]

theorem pop_eq_none {s : State} : s.pop = none ↔ s.sp.val = 0 := by
  unfold State.pop
  split <;> simp [*]

/-! ### Memory -/

theorem readByte_storeBytes_outside (s : State) (a : Nat) (bs : List Byte) (c : Nat)
    (h : c < a ∨ a + bs.length ≤ c) : (s.storeBytes a bs).readByte c = s.readByte c :=
  read_writeBytes_outside s.mem a bs c h

theorem readByte_storeBytes_inside (s : State) (a : Nat) (bs : List Byte) (k : Nat) (h : k < bs.length) :
    (s.storeBytes a bs).readByte (a + k) = bs[k] :=
  read_writeBytes_inside s.mem a bs k h

@[simp] theorem regsUpTo_length (s : State) (x : Nibble) : (s.regsUpTo x).length = x.toNat + 1 := by
  simp [State.regsUpTo]

@[simp] theorem bcdDigits_length (b : Byte) : (bcdDigits b).length = 3 := rfl

theorem regsUpTo_getElem (s : State) (x : Nibble) (k : Nat) (h : k < (s.regsUpTo x).length) :
    (s.regsUpTo x)[k] = s.readV (BitVec.ofNat 4 k) := by
  simp [State.regsUpTo]

@[simp] theorem indexBytes_eq (s : State) (n : Nat) :
    s.indexBytes n = (List.range n).map fun k => s.readByte (s.i.toNat + k) := by
  simp [State.indexBytes, readBytes_eq_map, State.indexAddr, State.readByte]

/-- What the loads of R155 leave in each register. -/
theorem readV_loadRegs (s : State) (x r : Nibble) :
    (s.loadRegs x).readV r =
      if r.toNat ≤ x.toNat then s.readByte (s.i.toNat + r.toNat) else s.readV r := by
  simp [State.readV, State.loadedRegs, State.indexAddr]

/-- No address of the run is bad exactly when the run is empty or ends inside memory (R63). -/
theorem badIndexAddr_eq_none (s : State) (n : Nat) :
    s.badIndexAddr n = none ↔ n = 0 ∨ s.i.toNat + n ≤ 0x1000 := by
  rw [State.badIndexAddr, firstBadAddr_eq_none, State.indexAddr, Nat.add_zero]

/-- The first bad address of the run (R63, R216). -/
theorem badIndexAddr_eq_some (s : State) (n b : Nat) :
    s.badIndexAddr n = some b ↔ n ≠ 0 ∧ 0x1000 < s.i.toNat + n ∧ b = max s.i.toNat 0x1000 := by
  rw [State.badIndexAddr, firstBadAddr_eq_some, State.indexAddr, Nat.add_zero]

/-! ### Faults -/

/-- `raise` always answers the stopped state with its record (R214, R215). -/
theorem raise_eq (s : State) (kind : FaultKind) (ins : Instr) (addr : Option Nat) :
    s.raise kind ins addr = .next (s.stopFault
      (s.faultRecord kind (some (hiByte (encode ins))) (some (loByte (encode ins))) addr)) := rfl

/-- A checked access goes on, or raises AddressError at its first bad address. -/
theorem checked_cases (s : State) (n : Nat) (ins : Instr) (t : State) :
    ((n = 0 ∨ s.i.toNat + n ≤ 0x1000) ∧ s.checked n ins t = .next t) ∨
    (n ≠ 0 ∧ 0x1000 < s.i.toNat + n ∧
      s.checked n ins t = s.raise .addressError ins (some (max s.i.toNat 0x1000))) := by
  unfold State.checked
  cases h : s.badIndexAddr n with
  | none => exact .inl ⟨(badIndexAddr_eq_none s n).mp h, rfl⟩
  | some b =>
    obtain ⟨h1, h2, rfl⟩ := (badIndexAddr_eq_some s n b).mp h
    exact .inr ⟨h1, h2, rfl⟩

/-- The fetch: two bytes, or the record of the AddressError at pc or pc + 1 (R81). -/
theorem fetch_cases (s : State) :
    (s.pc.toNat < 0xFFF ∧ s.fetch = .ok (s.readByte s.pc.toNat, s.readByte (s.pc.toNat + 1))) ∨
    (s.pc.toNat = 0xFFF ∧ s.fetch =
      .error (s.faultRecord .addressError (some (s.readByte 0xFFF)) none (some 0x1000))) ∨
    (0x1000 ≤ s.pc.toNat ∧ s.fetch = .error (s.faultRecord .addressError none none (some s.pc.toNat))) := by
  unfold State.fetch
  simp only [decodeAddr_eq_none]
  by_cases h1 : 0x1000 ≤ s.pc.toNat
  · exact .inr (.inr ⟨h1, if_pos h1⟩)
  · by_cases h2 : 0x1000 ≤ s.pc.toNat + 1
    · have h3 : s.pc.toNat = 0xFFF := by omega
      exact .inr (.inl ⟨h3, by rw [if_neg h1, if_pos h2, h3]⟩)
    · exact .inl ⟨by omega, by rw [if_neg h1, if_neg h2]⟩

/-! ### Keys -/

theorem isPressed_eq (s : State) (k : Key) : s.isPressed k = (s.counter k).isSome := rfl

@[simp] theorem counter_startCounter_same (s : State) (k : Key) : (s.startCounter k).counter k = some keyDuration := by
  cases k <;> simp [State.startCounter, State.counter]

theorem counter_startCounter_ne (s : State) {k j : Key} (h : j ≠ k) :
    (s.startCounter k).counter j = s.counter j := by
  cases k with
  | exit => cases j with
    | exit => exact absurd rfl h
    | hex j => rfl
  | hex k => cases j with
    | exit => rfl
    | hex j =>
      have h' : k.toNat ≠ j.toNat := fun e => h (by rw [BitVec.eq_of_toNat_eq e])
      simp [State.startCounter, State.counter, h']

@[simp] theorem counter_keyTick (s : State) (k : Key) : s.keyTick.counter k = ageCounter (s.counter k) := by
  cases k <;> simp [State.counter]

/-- The pressed hex keys are those whose counter is present (R192). -/
theorem mem_pressedHexKeys (s : State) (k : Nibble) : k ∈ s.pressedHexKeys ↔ s.isPressed (.hex k) = true := by
  simp only [State.pressedHexKeys, hexKeyNumbers, List.mem_filter, List.mem_map, List.mem_range]
  exact ⟨fun h => h.2, fun h => ⟨⟨k.toNat, k.isLt, by simp⟩, h⟩⟩

/-- pressed_button answers nothing without a pressed hex key, and otherwise one of them; only the count of
draws can change (R192). -/
theorem pressedButton_cases (s : State) :
    ((∀ k, s.isPressed (.hex k) = false) ∧ s.pressedButton = (none, s)) ∨
    ∃ k, s.isPressed (.hex k) = true ∧ (s.pressedButton = (some k, s) ∨ s.pressedButton = (some k, s.nextDraw)) := by
  have hmem := mem_pressedHexKeys s
  unfold State.pressedButton
  split
  · next h =>
    refine .inl ⟨fun k => ?_, rfl⟩
    have := hmem k
    simpa [h] using this
  · next k h => exact .inr ⟨k, (hmem k).mp (by simp [h]), .inl rfl⟩
  · next k ks h =>
    exact .inr ⟨_, (hmem _).mp (by rw [h]; exact List.getElem_mem _), .inr rfl⟩

/-- register_press starts its key's counter and no other (R190). -/
theorem counter_registerPress (s : State) (k j : Key) :
    (s.registerPress k).counter j = if j = k then some keyDuration else s.counter j := by
  rw [State.registerPress, counter_congr (s := s.startCounter k) (by simp) (by simp)]
  split
  · next h => subst h; exact counter_startCounter_same s j
  · next h => exact counter_startCounter_ne s h

/-- A run of presses starts the counter of every key in it and of no other (R190, R196). -/
theorem counter_foldl_registerPress (ks : List Key) (s : State) (j : Key) :
    (ks.foldl State.registerPress s).counter j = if j ∈ ks then some keyDuration else s.counter j := by
  induction ks generalizing s with
  | nil => simp
  | cons k ks ih =>
    rw [List.foldl_cons, ih, counter_registerPress]
    by_cases h1 : j ∈ ks <;> by_cases h2 : j = k <;> simp [h1, h2]

@[simp] theorem pressBetween_nil (s : State) : s.pressBetween [] = s := by
  unfold State.pressBetween
  split <;> rfl

theorem pressBetween_stopped {s : State} (h : s.run ≠ .running) (ks : List Key) : s.pressBetween ks = s := if_neg h

theorem pressBetween_running {s : State} (h : s.run = .running) (ks : List Key) :
    s.pressBetween ks = ks.foldl State.registerPress s := if_pos h

/-- After a step that stopped the run nothing follows in the tick (R221, R224). -/
theorem exitCheck_stopped {s : State} (h : s.run ≠ .running) : s.exitCheck = s := if_neg fun h' => h h'.1

/-- A stopped run counts no tick (R229). -/
theorem countTick_stopped {s : State} (h : s.run ≠ .running) : s.countTick = s := if_neg h

/-! ### The transition -/

/-- 540 / 60 (R228). -/
theorem ticksPerFrame_eq : Config.ticksPerFrame = 9 := rfl

/-- What a counted tick does while the run goes on: the next count, or on the ninth tick the frame tick (R228). -/
theorem countTick_running {s : State} (h : s.run = .running) :
    (s.div.val < 8 ∧ s.countTick = s.incrDiv ∧ s.incrDiv.div.val = s.div.val + 1) ∨
    (s.div.val = 8 ∧ s.countTick = s.issueFrame) := by
  have hd := s.div.isLt
  unfold State.countTick
  rw [if_pos h, ticksPerFrame_eq]
  by_cases h8 : s.div.val = 8
  · exact .inr ⟨h8, if_pos (by omega)⟩
  · refine .inl ⟨by omega, if_neg (by omega), ?_⟩
    show (s.div.val + 1) % 9 = s.div.val + 1
    omega

/-- With an event to come, it is the next one (R227). -/
theorem nextEvent_cons {s : State} {e : Event} {rest : List Event} (h : s.inputs = e :: rest) : s.nextEvent = e := by
  unfold State.nextEvent
  rw [h]

/-- Without one, it is the reference schedule's instruction tick (R228). -/
theorem nextEvent_nil {s : State} (h : s.inputs = []) : s.nextEvent = .instrTick [] := by
  unfold State.nextEvent
  rw [h]

/-- A stopped machine stays as it is (R224). -/
theorem transition_stopped (s : State) (h : s.run ≠ .running) : s.transition = .next s := by
  unfold State.transition
  split
  · next h' => exact absurd h' h
  · rfl
  · rfl

/-- A running machine with an event to come handles it (R225, R227). -/
theorem transition_input (s : State) (h : s.run = .running) {e : Event} {rest : List Event}
    (hi : s.inputs = e :: rest) : s.transition = (s.setInputs rest).handle e := by
  unfold State.transition
  rw [h, hi]

/-- A running machine without an event to come goes on with the reference schedule (R228). -/
theorem transition_reference (s : State) (h : s.run = .running) (hi : s.inputs = []) :
    s.transition = s.referenceTick := by
  unfold State.transition
  rw [h, hi]

/-- What a transition does when the next event is an instruction tick (R221, R228). -/
theorem transition_instrTick (s : State) (ks : List Key) (hr : s.run = .running) (hn : s.nextEvent = .instrTick ks) :
    s.transition = match (s.setInputs s.inputs.tail).instrTick ks with
      | .next t => .next (if s.inputs = [] then t.countTick else t)
      | .fault r => .fault r
      | .refused r => .refused r := by
  cases hi : s.inputs with
  | nil =>
    have hs : s.setInputs [] = s := by rw [← hi]; rfl
    rw [nextEvent_nil hi] at hn
    cases hn
    rw [transition_reference s hr hi, State.referenceTick, List.tail_nil, hs]
    cases s.instrTick [] with
    | next t => rfl
    | fault r => rfl
    | refused r => rfl
  | cons e rest =>
    rw [nextEvent_cons hi] at hn
    subst hn
    rw [transition_input s hr hi, State.handle, List.tail_cons]
    cases (s.setInputs rest).instrTick ks with
    | next t => rfl
    | fault r => rfl
    | refused r => rfl

/-- What a transition does when the next event is a frame tick (R223). -/
theorem transition_frameTick (s : State) (hr : s.run = .running) (hn : s.nextEvent = .frameTick) :
    s.transition = .next (s.setInputs s.inputs.tail).frameTick := by
  cases hi : s.inputs with
  | nil =>
    rw [nextEvent_nil hi] at hn
    cases hn
  | cons e rest =>
    rw [nextEvent_cons hi] at hn
    subst hn
    rw [transition_input s hr hi]
    rfl

/-- What a transition does when the next event is the host's key press (R190, R234). -/
theorem transition_registerPress (s : State) (k : Key) (hr : s.run = .running)
    (hn : s.nextEvent = .registerPress k) :
    s.transition = .next ((s.setInputs s.inputs.tail).registerPress k) := by
  cases hi : s.inputs with
  | nil =>
    rw [nextEvent_nil hi] at hn
    cases hn
  | cons e rest =>
    rw [nextEvent_cons hi] at hn
    subst hn
    rw [transition_input s hr hi]
    rfl

end Sys2Proof.Machine
end

