-- ==== Sys2Proof/Laws/Exec.lean ====
section
/-! SUPPORT. What an instruction can do, said once: it takes a fatal condition and nothing else, or it completes
and leaves the run, the record, the keys, the clocks and the host's side of the state alone (60_exceptions.md R215,
10_state.md R29). -/

namespace Sys2Proof.Machine

/-- The parts of the state that no completed instruction reaches. -/
structure Completed (s t : State) : Prop where
  run : t.run = s.run
  record : t.record = s.record
  hexKeys : t.hexKeys = s.hexKeys
  exitKey : t.exitKey = s.exitKey
  div : t.div = s.div
  cfg : t.cfg = s.cfg
  shown : t.shown = s.shown
  inputs : t.inputs = s.inputs

/-- One form of every checked access: AddressError or completion. -/
theorem checked_completed {s t : State} {n : Nat} {ins : Instr} (h : Completed s t) :
    (∃ kind addr, s.checked n ins t = s.raise kind ins addr ∧ (addr.isSome = true ↔ kind = .addressError)) ∨
    ∃ u, s.checked n ins t = .next u ∧ Completed s u := by
  rcases checked_cases s n ins t with ⟨-, e⟩ | ⟨-, -, e⟩
  · exact .inr ⟨t, e, h⟩
  · exact .inl ⟨_, _, e, by simp⟩

/-- Every instruction raises one fatal condition or completes. -/
theorem exec_cases (i : Instr) (s : State) :
    (∃ kind addr, exec i s = s.raise kind i addr ∧ (addr.isSome = true ↔ kind = .addressError)) ∨
    ∃ t, exec i s = .next t ∧ Completed s t := by
  cases i
  case ret =>
    cases h : s.pop with
    | none => exact .inl ⟨.stackUnderflow, none, by simp [exec, execRet, h], by simp⟩
    | some r =>
      obtain ⟨w, u⟩ := r
      obtain ⟨-, -, hu⟩ := pop_eq_some.mp h
      exact .inr ⟨u.setPc w, by simp [exec, execRet, h], by constructor <;> simp [hu]⟩
  case call nnn =>
    cases h : s.push (s.pc + 2) with
    | none => exact .inl ⟨.stackOverflow, none, by simp only [exec, execCall, h], by simp⟩
    | some u =>
      obtain ⟨_, hu⟩ := push_eq_some.mp h
      exact .inr ⟨u.setPc (zext16 nnn), by simp only [exec, execCall, h], by constructor <;> simp [hu]⟩
  case ldB x => exact checked_completed (by constructor <;> simp)
  case ldMemVx x => exact checked_completed (by constructor <;> simp)
  case ldVxMem x => exact checked_completed (by constructor <;> simp)
  case drw x y n => exact checked_completed (by constructor <;> simp)
  case ldVxK x =>
    refine .inr ?_
    cases hm : s.cfg.fx0aMode
    · rcases pressedButton_cases s with ⟨-, e⟩ | ⟨k, -, e | e⟩ <;>
        exact ⟨_, by simp only [exec, execLdVxK, State.takeKey, hm, e]; rfl, by constructor <;> simp⟩
    · cases hw : s.wait <;>
        exact ⟨_, by simp only [exec, execLdVxK, State.takeKey, State.waitKey, hm, hw]; rfl, by constructor <;> simp⟩
  case ldVxDt x =>
    cases hm : s.cfg.timers <;>
      exact .inr ⟨_, by simp only [exec, execLdVxDt, hm]; rfl, by constructor <;> simp⟩
  case ldDtVx x =>
    cases hm : s.cfg.timers <;>
      exact .inr ⟨_, by simp only [exec, execLdDtVx, hm]; rfl, by constructor <;> simp⟩
  case ldStVx x =>
    cases hm : s.cfg.timers <;>
      exact .inr ⟨_, by simp only [exec, execLdStVx, hm]; rfl, by constructor <;> simp⟩
  all_goals exact .inr ⟨_, rfl, by constructor <;> simp⟩

end Sys2Proof.Machine
end

