-- ==== Sys2Proof/Laws/PerInstr.lean ====
section
/-! SUPPORT. What holds of every instruction as syntax, one lemma per constructor: its row stands in the opcode
table, and the row selects its word (30_encoding.md R84 to R91). -/

namespace Sys2Proof.Laws.TableShape

/-- The instruction's row is one of spec/opcode_table.json's, and the row selects the instruction's word. -/
def Statement (i : Instr) : Prop := i.row ∈ opcodeTable ∧ i.row.selects (encode i) = true

/-! ### A word under the four masks -/

theorem top_nnn (op : Nibble) (nnn : Addr12) : (op ++ nnn) &&& 0xF000#16 = op ++ 0x000#12 := by
  apply BitVec.eq_of_getLsbD_eq
  intro i h
  simp only [BitVec.getLsbD_and, BitVec.getLsbD_append]
  interval_cases i <;> simp

theorem top_xnn (op x : Nibble) (nn : Byte) : (op ++ x ++ nn) &&& 0xF000#16 = op ++ 0x000#12 := by
  apply BitVec.eq_of_getLsbD_eq
  intro i h
  simp only [BitVec.getLsbD_and, BitVec.getLsbD_append]
  interval_cases i <;> simp

theorem top_xyn (op x y n : Nibble) : (op ++ x ++ y ++ n) &&& 0xF000#16 = op ++ 0x000#12 := by
  apply BitVec.eq_of_getLsbD_eq
  intro i h
  simp only [BitVec.getLsbD_and, BitVec.getLsbD_append]
  interval_cases i <;> simp

theorem ends_xyn (op x y n : Nibble) : (op ++ x ++ y ++ n) &&& 0xF00F#16 = op ++ 0x00#8 ++ n := by
  apply BitVec.eq_of_getLsbD_eq
  intro i h
  simp only [BitVec.getLsbD_and, BitVec.getLsbD_append]
  interval_cases i <;> simp

theorem ends_xnn (op x : Nibble) (nn : Byte) : (op ++ x ++ nn) &&& 0xF0FF#16 = op ++ 0x0#4 ++ nn := by
  apply BitVec.eq_of_getLsbD_eq
  intro i h
  simp only [BitVec.getLsbD_and, BitVec.getLsbD_append]
  interval_cases i <;> simp

/-- A row of the table whose pattern is what its mask leaves of the word. -/
theorem statement_of {i : Instr} {p : Word} (hm : i.row ∈ opcodeTable) (h : encode i &&& i.row.mask = p)
    (hp : p = i.row.pattern) : Statement i :=
  ⟨hm, by rw [OpRow.selects, h, hp]; exact beq_self_eq_true _⟩

/-! ### One lemma per constructor -/

theorem cls : Statement .cls := ⟨by decide, by decide⟩
theorem ret : Statement .ret := ⟨by decide, by decide⟩
theorem jp (nnn : Addr12) : Statement (.jp nnn) := statement_of
  (by change Instr.row (.jp 0) ∈ opcodeTable; decide) (top_nnn _ _) rfl
theorem call (nnn : Addr12) : Statement (.call nnn) := statement_of
  (by change Instr.row (.call 0) ∈ opcodeTable; decide) (top_nnn _ _) rfl
theorem seImm (x : Nibble) (nn : Byte) : Statement (.seImm x nn) := statement_of
  (by change Instr.row (.seImm 0 0) ∈ opcodeTable; decide) (top_xnn _ _ _) rfl
theorem sneImm (x : Nibble) (nn : Byte) : Statement (.sneImm x nn) := statement_of
  (by change Instr.row (.sneImm 0 0) ∈ opcodeTable; decide) (top_xnn _ _ _) rfl
theorem seReg (x y : Nibble) : Statement (.seReg x y) := statement_of
  (by change Instr.row (.seReg 0 0) ∈ opcodeTable; decide) (ends_xyn _ _ _ _) rfl
theorem ldImm (x : Nibble) (nn : Byte) : Statement (.ldImm x nn) := statement_of
  (by change Instr.row (.ldImm 0 0) ∈ opcodeTable; decide) (top_xnn _ _ _) rfl
theorem addImm (x : Nibble) (nn : Byte) : Statement (.addImm x nn) := statement_of
  (by change Instr.row (.addImm 0 0) ∈ opcodeTable; decide) (top_xnn _ _ _) rfl
theorem ldReg (x y : Nibble) : Statement (.ldReg x y) := statement_of
  (by change Instr.row (.ldReg 0 0) ∈ opcodeTable; decide) (ends_xyn _ _ _ _) rfl
theorem orReg (x y : Nibble) : Statement (.orReg x y) := statement_of
  (by change Instr.row (.orReg 0 0) ∈ opcodeTable; decide) (ends_xyn _ _ _ _) rfl
theorem andReg (x y : Nibble) : Statement (.andReg x y) := statement_of
  (by change Instr.row (.andReg 0 0) ∈ opcodeTable; decide) (ends_xyn _ _ _ _) rfl
theorem xorReg (x y : Nibble) : Statement (.xorReg x y) := statement_of
  (by change Instr.row (.xorReg 0 0) ∈ opcodeTable; decide) (ends_xyn _ _ _ _) rfl
theorem addReg (x y : Nibble) : Statement (.addReg x y) := statement_of
  (by change Instr.row (.addReg 0 0) ∈ opcodeTable; decide) (ends_xyn _ _ _ _) rfl
theorem sub (x y : Nibble) : Statement (.sub x y) := statement_of
  (by change Instr.row (.sub 0 0) ∈ opcodeTable; decide) (ends_xyn _ _ _ _) rfl
theorem shr (x y : Nibble) : Statement (.shr x y) := statement_of
  (by change Instr.row (.shr 0 0) ∈ opcodeTable; decide) (ends_xyn _ _ _ _) rfl
theorem subn (x y : Nibble) : Statement (.subn x y) := statement_of
  (by change Instr.row (.subn 0 0) ∈ opcodeTable; decide) (ends_xyn _ _ _ _) rfl
theorem shl (x y : Nibble) : Statement (.shl x y) := statement_of
  (by change Instr.row (.shl 0 0) ∈ opcodeTable; decide) (ends_xyn _ _ _ _) rfl
theorem sneReg (x y : Nibble) : Statement (.sneReg x y) := statement_of
  (by change Instr.row (.sneReg 0 0) ∈ opcodeTable; decide) (ends_xyn _ _ _ _) rfl
theorem ldI (nnn : Addr12) : Statement (.ldI nnn) := statement_of
  (by change Instr.row (.ldI 0) ∈ opcodeTable; decide) (top_nnn _ _) rfl
theorem rnd (x : Nibble) (nn : Byte) : Statement (.rnd x nn) := statement_of
  (by change Instr.row (.rnd 0 0) ∈ opcodeTable; decide) (top_xnn _ _ _) rfl
theorem drw (x y n : Nibble) : Statement (.drw x y n) := statement_of
  (by change Instr.row (.drw 0 0 0) ∈ opcodeTable; decide) (top_xyn _ _ _ _) rfl
theorem skp (x : Nibble) : Statement (.skp x) := statement_of
  (by change Instr.row (.skp 0) ∈ opcodeTable; decide) (ends_xnn _ _ _) rfl
theorem sknp (x : Nibble) : Statement (.sknp x) := statement_of
  (by change Instr.row (.sknp 0) ∈ opcodeTable; decide) (ends_xnn _ _ _) rfl
theorem ldVxDt (x : Nibble) : Statement (.ldVxDt x) := statement_of
  (by change Instr.row (.ldVxDt 0) ∈ opcodeTable; decide) (ends_xnn _ _ _) rfl
theorem ldVxK (x : Nibble) : Statement (.ldVxK x) := statement_of
  (by change Instr.row (.ldVxK 0) ∈ opcodeTable; decide) (ends_xnn _ _ _) rfl
theorem ldDtVx (x : Nibble) : Statement (.ldDtVx x) := statement_of
  (by change Instr.row (.ldDtVx 0) ∈ opcodeTable; decide) (ends_xnn _ _ _) rfl
theorem ldStVx (x : Nibble) : Statement (.ldStVx x) := statement_of
  (by change Instr.row (.ldStVx 0) ∈ opcodeTable; decide) (ends_xnn _ _ _) rfl
theorem addI (x : Nibble) : Statement (.addI x) := statement_of
  (by change Instr.row (.addI 0) ∈ opcodeTable; decide) (ends_xnn _ _ _) rfl
theorem ldF (x : Nibble) : Statement (.ldF x) := statement_of
  (by change Instr.row (.ldF 0) ∈ opcodeTable; decide) (ends_xnn _ _ _) rfl
theorem ldB (x : Nibble) : Statement (.ldB x) := statement_of
  (by change Instr.row (.ldB 0) ∈ opcodeTable; decide) (ends_xnn _ _ _) rfl
theorem ldMemVx (x : Nibble) : Statement (.ldMemVx x) := statement_of
  (by change Instr.row (.ldMemVx 0) ∈ opcodeTable; decide) (ends_xnn _ _ _) rfl
theorem ldVxMem (x : Nibble) : Statement (.ldVxMem x) := statement_of
  (by change Instr.row (.ldVxMem 0) ∈ opcodeTable; decide) (ends_xnn _ _ _) rfl

end Sys2Proof.Laws.TableShape
end

