-- ==== Sys2Proof/Tests/Slice0.lean ====
section
/-! SUPPORT. The model's own tests. Every expected value is taken from 95_test_vectors.md (the vector's name stands
in the test's docstring) or from the encodings of 30_encoding.md; the last part shows, for each statement with
hypotheses, concrete data that meet them. -/

namespace Sys2Proof.Tests

open Sys2Proof.Machine

set_option Elab.async false

/-! ### Small states -/

/-- The state after reset with `bs` at its pc. -/
def fresh (bs : List Byte) : State := State.reset.storeBytes 0x200 bs

/-- `s` with V[x] holding `b`. -/
def reg (x : Nibble) (b : Byte) (s : State) : State := s.writeV x b

/-- One step, or the state itself where the step does not answer one. -/
def after (s : State) : State :=
  match step s with
  | .next t => t
  | .fault _ => s
  | .refused _ => s

/-- The pixels that are on, by number. -/
def lit (s : State) : List Nat := (List.finRange 2048).filterMap fun p => if pixel s.fb p then some p.val else none

/-! ### Well-formed terms and images

No instruction term is ill-formed (`wellFormed_all`: every field's type is its width, R82), so the check that can
refuse is the image's. -/

/-- The longest legal image (R244). -/
theorem test_image_of_3584_bytes_is_wellformed : imageWellFormed (List.replicate 3584 0xFF) = true := by
  rw [imageWellFormed, List.length_replicate]; decide

/-- One byte more is refused (R244). -/
theorem test_image_of_3585_bytes_is_refused : imageWellFormed (List.replicate 3585 0xFF) = false := by
  rw [imageWellFormed, List.length_replicate]; decide

/-- An instruction with every operand at its largest value is well-formed (R82). -/
theorem test_largest_operands_are_wellformed : (Instr.drw 0xF 0xF 0xF).wellFormed = true := by decide

/-! ### Decode: one word per constructor, written bit by bit from R84 to R89 -/

theorem test_decode_cls : decode 0b0000000011100000 = .ok (.cls) := by decide
theorem test_decode_ret : decode 0b0000000011101110 = .ok (.ret) := by decide
theorem test_decode_jp : decode 0b0001001000110100 = .ok (.jp 0x234) := by decide
theorem test_decode_call : decode 0b0010001100000000 = .ok (.call 0x300) := by decide
theorem test_decode_seImm : decode 0b0011001100101010 = .ok (.seImm 3 0x2A) := by decide
theorem test_decode_sneImm : decode 0b0100001100101010 = .ok (.sneImm 3 0x2A) := by decide
theorem test_decode_seReg : decode 0b0101000100100000 = .ok (.seReg 1 2) := by decide
theorem test_decode_ldImm : decode 0b0110101000000101 = .ok (.ldImm 0xA 0x05) := by decide
theorem test_decode_addImm : decode 0b0111000000100000 = .ok (.addImm 0 0x20) := by decide
theorem test_decode_ldReg : decode 0b1000000000010000 = .ok (.ldReg 0 1) := by decide
theorem test_decode_orReg : decode 0b1000000000010001 = .ok (.orReg 0 1) := by decide
theorem test_decode_andReg : decode 0b1000000000010010 = .ok (.andReg 0 1) := by decide
theorem test_decode_xorReg : decode 0b1000000000010011 = .ok (.xorReg 0 1) := by decide
theorem test_decode_addReg : decode 0b1000000000010100 = .ok (.addReg 0 1) := by decide
theorem test_decode_sub : decode 0b1000000000010101 = .ok (.sub 0 1) := by decide
theorem test_decode_shr : decode 0b1000000000010110 = .ok (.shr 0 1) := by decide
theorem test_decode_subn : decode 0b1000000000010111 = .ok (.subn 0 1) := by decide
theorem test_decode_shl : decode 0b1000000000011110 = .ok (.shl 0 1) := by decide
theorem test_decode_sneReg : decode 0b1001000100100000 = .ok (.sneReg 1 2) := by decide
theorem test_decode_ldI : decode 0b1010001000001010 = .ok (.ldI 0x20A) := by decide
theorem test_decode_rnd : decode 0b1100001100001111 = .ok (.rnd 3 0x0F) := by decide
theorem test_decode_drw : decode 0b1101000100100101 = .ok (.drw 1 2 5) := by decide
theorem test_decode_skp : decode 0b1110001010011110 = .ok (.skp 2) := by decide
theorem test_decode_sknp : decode 0b1110001010100001 = .ok (.sknp 2) := by decide
theorem test_decode_ldVxDt : decode 0b1111000100000111 = .ok (.ldVxDt 1) := by decide
theorem test_decode_ldVxK : decode 0b1111001100001010 = .ok (.ldVxK 3) := by decide
theorem test_decode_ldDtVx : decode 0b1111000100010101 = .ok (.ldDtVx 1) := by decide
theorem test_decode_ldStVx : decode 0b1111000100011000 = .ok (.ldStVx 1) := by decide
theorem test_decode_addI : decode 0b1111001000011110 = .ok (.addI 2) := by decide
theorem test_decode_ldF : decode 0b1111101000101001 = .ok (.ldF 0xA) := by decide
theorem test_decode_ldB : decode 0b1111000000110011 = .ok (.ldB 0) := by decide
theorem test_decode_ldMemVx : decode 0b1111001001010101 = .ok (.ldMemVx 2) := by decide
theorem test_decode_ldVxMem : decode 0b1111001001100101 = .ok (.ldVxMem 2) := by decide

/-- DE2, DE3: words of family 0 that are neither CLS nor RET. -/
theorem test_decode_rejects_system : decode 0x00E1 = .error .system ∧ decode 0x0200 = .error .system := by decide
/-- DE4. -/
theorem test_decode_rejects_skipEqual : decode 0x5121 = .error .skipEqual := by decide
/-- DE5. -/
theorem test_decode_rejects_skipNotEqual : decode 0x912F = .error .skipNotEqual := by decide
/-- DE6. -/
theorem test_decode_rejects_alu :
    decode 0x8018 = .error .alu ∧ decode 0x801D = .error .alu ∧ decode 0x801F = .error .alu := by decide
/-- DE7. -/
theorem test_decode_rejects_familyB : decode 0xB123 = .error .familyB := by decide
/-- DE8. -/
theorem test_decode_rejects_key : decode 0xE19F = .error .key := by decide
/-- DE9. -/
theorem test_decode_rejects_misc : decode 0xF108 = .error .misc ∧ decode 0xF156 = .error .misc := by decide
/-- An instruction is two bytes (R80); the high byte comes first (R81). -/
theorem test_decode_bytes : decodeBytes [0x6A, 0x05, 0xFA] = .ok (.ldImm 0xA 5, [0xFA]) ∧
    decodeBytes [0x6A] = .error .truncated := by decide
/-- The first word of opcode_table.json's RET row, as the host numbers its bits. -/
theorem test_decode_table_word : decodeTableWord 16 0x00EE = some .ret ∧ decodeTableWord 16 0xB000 = none := by decide

/-! ### One step of each instruction -/

/-- CF1. -/
theorem test_jp : (after (fresh [0x12, 0x34])).pc = 0x0234 := by decide +kernel
/-- CF3. -/
theorem test_jp_end : (after (fresh [0x1F, 0xFF])).pc = 0x0FFF := by decide +kernel
/-- CF4. -/
theorem test_call :
    let t := after (fresh [0x23, 0x00])
    t.pc = 0x0300 ∧ t.sp.val = 1 ∧ t.stack[0] = 0x0202 := by decide +kernel
/-- CF5. -/
theorem test_call_overflow :
    let t := after { fresh [0x23, 0x00] with sp := 16 }
    t.pc = 0x0200 ∧ t.sp.val = 16 ∧ t.record = some ⟨.stackOverflow, 2, 0x0200, some 0x23, some 0x00, none⟩ := by
  decide +kernel
/-- CF7. -/
theorem test_ret :
    let t := after { fresh [0x00, 0xEE] with sp := 1, stack := State.reset.stack.set 0 0x0206 }
    t.pc = 0x0206 ∧ t.sp.val = 0 := by decide +kernel
/-- CF8, at 0x200. -/
theorem test_ret_underflow :
    (after (fresh [0x00, 0xEE])).record = some ⟨.stackUnderflow, 3, 0x0200, some 0x00, some 0xEE, none⟩ := by
  decide +kernel
/-- CF9. -/
theorem test_seImm : (after (reg 3 0x2A (fresh [0x33, 0x2A]))).pc = 0x0204 := by decide +kernel
/-- CF10. -/
theorem test_seImm_not : (after (reg 3 0x2B (fresh [0x33, 0x2A]))).pc = 0x0202 := by decide +kernel
/-- CF11. -/
theorem test_sneImm_not : (after (reg 3 0x2A (fresh [0x43, 0x2A]))).pc = 0x0202 := by decide +kernel
/-- CF12. -/
theorem test_sneImm : (after (reg 3 0x00 (fresh [0x43, 0x2A]))).pc = 0x0204 := by decide +kernel
/-- CF13. -/
theorem test_seReg : (after (reg 2 0x07 (reg 1 0x07 (fresh [0x51, 0x20])))).pc = 0x0204 := by decide +kernel
/-- CF15. -/
theorem test_sneReg : (after (reg 2 0x08 (reg 1 0x07 (fresh [0x91, 0x20])))).pc = 0x0204 := by decide +kernel
/-- CF16. -/
theorem test_sneReg_not : (after (fresh [0x95, 0x50])).pc = 0x0202 := by decide +kernel
/-- AL1. -/
theorem test_ldImm : (after (fresh [0x6A, 0x05])).readV 0xA = 0x05 := by decide +kernel
/-- AL3. -/
theorem test_addImm :
    let t := after (reg 0xF 0x77 (reg 0 0xFF (fresh [0x70, 0x01])))
    t.readV 0 = 0x00 ∧ t.readV 0xF = 0x77 := by decide +kernel
/-- AL4. -/
theorem test_addImm_vf : (after (reg 0xF 0x01 (fresh [0x7F, 0x02]))).readV 0xF = 0x03 := by decide +kernel
/-- AL5. -/
theorem test_ldReg : (after (reg 1 0x33 (fresh [0x80, 0x10]))).readV 0 = 0x33 := by decide +kernel
/-- AL6. -/
theorem test_orReg :
    let t := after (reg 0xF 0x55 (reg 1 0xF0 (reg 0 0x0F (fresh [0x80, 0x11]))))
    t.readV 0 = 0xFF ∧ t.readV 0xF = 0x55 := by decide +kernel
/-- AL7. -/
theorem test_andReg :
    let t := after (reg 0xF 0x55 (reg 1 0x0F (reg 0 0x3C (fresh [0x80, 0x12]))))
    t.readV 0 = 0x0C ∧ t.readV 0xF = 0x55 := by decide +kernel
/-- AL8. -/
theorem test_xorReg :
    let t := after (reg 0xF 0x55 (reg 1 0x0F (reg 0 0x3C (fresh [0x80, 0x13]))))
    t.readV 0 = 0x33 ∧ t.readV 0xF = 0x55 := by decide +kernel
/-- AL13. -/
theorem test_addReg :
    let t := after (reg 0xF 0xF5 (reg 0 0x10 (fresh [0x80, 0xF4])))
    t.readV 0 = 0x05 ∧ t.readV 0xF = 1 := by decide +kernel
/-- AL14. -/
theorem test_addReg_flag_order :
    let s := reg 1 0x05 (reg 0xF 0x10 (fresh [0x8F, 0x14]))
    (after s).readV 0xF = 0 ∧ (after { s with cfg := { s.cfg with flagLast := false } }).readV 0xF = 0x15 := by
  decide +kernel
/-- AL16. -/
theorem test_sub_equal :
    let t := after (reg 1 0x03 (reg 0 0x03 (fresh [0x80, 0x15])))
    t.readV 0 = 0x00 ∧ t.readV 0xF = 0 := by decide +kernel
/-- AL17. -/
theorem test_sub_wraps :
    let t := after (reg 1 0x01 (reg 0 0x00 (fresh [0x80, 0x15])))
    t.readV 0 = 0xFF ∧ t.readV 0xF = 0 := by decide +kernel
/-- AL19. -/
theorem test_shr :
    let t := after (reg 0 0x05 (fresh [0x80, 0x16]))
    t.readV 0 = 0x02 ∧ t.readV 0xF = 1 := by decide +kernel
/-- DE10. -/
theorem test_shr_ignores_y :
    let t := after (reg 1 0xFF (reg 0 0x04 (fresh [0x80, 0x16])))
    t.readV 0 = 0x02 ∧ t.readV 0xF = 0 := by decide +kernel
/-- AL23. -/
theorem test_subn :
    let t := after (reg 1 0x05 (reg 0 0x03 (fresh [0x80, 0x17])))
    t.readV 0 = 0x02 ∧ t.readV 0xF = 1 := by decide +kernel
/-- AL24. -/
theorem test_subn_wraps :
    let t := after (reg 1 0x01 (reg 0 0x02 (fresh [0x80, 0x17])))
    t.readV 0 = 0xFF ∧ t.readV 0xF = 0 := by decide +kernel
/-- AL26. -/
theorem test_shl :
    let t := after (reg 0 0x81 (fresh [0x80, 0x1E]))
    t.readV 0 = 0x02 ∧ t.readV 0xF = 1 := by decide +kernel
/-- AL27. -/
theorem test_shl_clear :
    let t := after (reg 0 0x7F (fresh [0x80, 0x0E]))
    t.readV 0 = 0xFE ∧ t.readV 0xF = 0 := by decide +kernel
/-- IM2. -/
theorem test_ldI : (after (fresh [0xAF, 0xFF])).i = 0x0FFF := by decide +kernel
/-- IM4. -/
theorem test_addI_wraps : (after { reg 0 0x02 (fresh [0xF0, 0x1E]) with i := 0xFFFF }).i = 0x0001 := by decide +kernel
/-- IM5. -/
theorem test_addI :
    let t := after { reg 0 0x01 (fresh [0xF0, 0x1E]) with i := 0x0FFF }
    t.i = 0x1000 ∧ t.run = .running := by decide +kernel
/-- IM6. -/
theorem test_ldF : (after (reg 0xA 0x05 (fresh [0xFA, 0x29]))).i = 0x0019 := by decide +kernel
/-- IM9. -/
theorem test_ldF_not_masked : (after (reg 0 0xFF (fresh [0xF0, 0x29]))).i = 0x04FB := by decide +kernel
/-- IM10. -/
theorem test_ldB :
    (after { reg 0 0x9C (fresh [0xF0, 0x33]) with i := 0x0300 }).mem.readBytes 0x300 3 = [0x01, 0x05, 0x06] := by
  decide +kernel
/-- IM14. -/
theorem test_ldB_bad :
    let t := after { reg 0 0x07 (fresh [0xF0, 0x33]) with i := 0x0FFE }
    t.record = some ⟨.addressError, 4, 0x0200, some 0xF0, some 0x33, some 0x1000⟩ ∧ t.readByte 0xFFE = 0x00 := by
  decide +kernel
/-- IM15. -/
theorem test_ldMemVx :
    let t := after { reg 2 0x33 (reg 1 0x22 (reg 0 0x11 (fresh [0xF2, 0x55]))) with i := 0x0300 }
    t.mem.readBytes 0x300 4 = [0x11, 0x22, 0x33, 0x00] ∧ t.i = 0x0300 := by decide +kernel
/-- IM22. -/
theorem test_ldMemVx_font :
    (after { reg 0 0x99 (fresh [0xF0, 0x55]) with i := 0x0000 }).readByte 0x000 = 0x99 := by decide +kernel
/-- IM19. -/
theorem test_ldVxMem :
    let t := after { (fresh [0xF2, 0x65]).storeBytes 0x300 [0x11, 0x22, 0x33, 0x44] with i := 0x0300 }
    t.readV 0 = 0x11 ∧ t.readV 1 = 0x22 ∧ t.readV 2 = 0x33 ∧ t.readV 3 = 0x00 := by decide +kernel
/-- IM21. -/
theorem test_ldVxMem_bad :
    (after { fresh [0xF0, 0x65] with i := 0xFFFF }).record =
      some ⟨.addressError, 4, 0x0200, some 0xF0, some 0x65, some 0xFFFF⟩ := by decide +kernel
/-- DS1. -/
theorem test_cls :
    let t := after { reg 0xF 0x77 (fresh [0x00, 0xE0]) with fb := clearFrame.set 0 0x20 }
    lit t = [] ∧ t.readV 0xF = 0x77 ∧ t.pc = 0x0202 := by decide +kernel
/-- DS7. -/
theorem test_drw_linear_and_toroidal :
    let s := { reg 0 0x3F ((fresh [0xD0, 0x11]).storeBytes 0x300 [0xFF]) with i := 0x0300 }
    lit (after s) = [63, 64, 65, 66, 67, 68, 69, 70] ∧
    lit (after { s with cfg := { s.cfg with drawWrap := .toroidal } }) = [0, 1, 2, 3, 4, 5, 6, 63] := by
  decide +kernel
/-- DS4. -/
theorem test_drw_collision :
    let t := after { (fresh [0xD0, 0x11]).storeBytes 0x300 [0x80] with i := 0x0300, fb := clearFrame.set 0 1 }
    lit t = [] ∧ t.readV 0xF = 1 := by decide +kernel
/-- KT1. -/
theorem test_skp :
    (after { reg 2 0x05 (fresh [0xE2, 0x9E]) with hexKeys := State.reset.hexKeys.set 5 (some 1) }).pc = 0x0204 := by
  decide +kernel
/-- KT3. -/
theorem test_skp_no_such_key :
    (after { reg 2 0x10 (fresh [0xE2, 0x9E]) with hexKeys := Vector.replicate 16 (some 1) }).pc = 0x0202 := by
  decide +kernel
/-- KT4. -/
theorem test_sknp :
    (after (reg 2 0x05 (fresh [0xE2, 0xA1]))).pc = 0x0204 ∧ (after (reg 2 0x10 (fresh [0xE2, 0xA1]))).pc = 0x0204 := by
  decide +kernel
/-- KT5. -/
theorem test_ldVxK_no_key :
    let t := after (fresh [0xF3, 0x0A])
    t.pc = 0x0200 ∧ t.v = State.reset.v ∧ t.run = .running := by decide +kernel
/-- KT8, the second step. -/
theorem test_ldVxK_delivered :
    let s := fresh [0xF0, 0x0A]
    let t := after { s with wait := .delivered 6, cfg := { s.cfg with fx0aMode := .nextPress } }
    t.readV 0 = 0x06 ∧ t.wait = .none ∧ t.pc = 0x0202 := by decide +kernel
/-- KT12. -/
theorem test_ldVxDt_absent :
    let t := after (reg 1 0x44 (fresh [0xF1, 0x07]))
    t.readV 1 = 0x44 ∧ t.pc = 0x0202 := by decide +kernel
/-- KT13. -/
theorem test_ldVxDt_present :
    let s := fresh [0xF1, 0x07]
    (after { s with dt := 0x3C, cfg := { s.cfg with timers := .present } }).readV 1 = 0x3C := by decide +kernel
/-- KT14, the first step. -/
theorem test_ldDtVx_present :
    let s := reg 1 0x3C (fresh [0xF1, 0x15])
    (after { s with cfg := { s.cfg with timers := .present } }).dt = 0x3C := by decide +kernel
/-- KT16. -/
theorem test_ldStVx_absent :
    let t := after (reg 1 0x05 (fresh [0xF1, 0x18]))
    t.st = 0x00 ∧ t.readV 1 = 0x05 ∧ t.pc = 0x0202 := by decide +kernel
/-- AL31: with nn = 00 the result is 00 whatever the draw. -/
theorem test_rnd_masked : (after (fresh [0xC3, 0x00])).readV 3 = 0x00 := by
  change Config.randomByte 0 &&& 0x00#8 = 0x00#8
  exact BitVec.and_zero

/-! ### The scheduler -/

/-- SC1. -/
theorem test_illegal_word_record :
    let t := after (fresh [0xB1, 0x23])
    t.run = .stoppedFault ∧ t.record = some ⟨.decodeError, 1, 0x0200, some 0xB1, some 0x23, none⟩ := by decide +kernel
/-- DE12. -/
theorem test_fetch_at_fff :
    (after { State.reset.storeBytes 0xFFF [0x12] with pc := 0x0FFF }).record =
      some ⟨.addressError, 4, 0x0FFF, some 0x12, none, some 0x1000⟩ := by decide +kernel
/-- DE14. -/
theorem test_fetch_at_1002 :
    (after { State.reset with pc := 0x1002 }).record =
      some ⟨.addressError, 4, 0x1002, none, none, some 0x1002⟩ := by decide +kernel
/-- SC2. -/
theorem test_exit_after_the_step :
    let t := after { fresh [0x60, 0x11] with exitKey := some 1 }
    t.readV 0 = 0x11 ∧ t.pc = 0x0202 ∧ t.run = .stoppedExit := by decide +kernel
/-- SC3. -/
theorem test_fault_before_the_exit_check :
    (after { fresh [0x00, 0xEE] with exitKey := some 1 }).run = .stoppedFault := by decide +kernel
/-- SC6: the ninth instruction tick of the period issues its frame tick, which leaves div at 0. -/
theorem test_frame_tick_of_the_schedule :
    let s := { fresh [0x12, 0x00] with div := 8 }
    (after s).div.val = 0 ∧ (after s).nextEvent = .frameTick ∧
    (after (after s)).div.val = 0 ∧ (after (after s)).inputs = [] ∧ (after (after s)).run = .running := by
  decide +kernel
/-- R196: a hex key the host presses between the step and the exit check is registered before the run stops on EXIT. -/
theorem test_press_between_step_and_exit_check :
    let t := after { fresh [0x60, 0x11] with inputs := [.instrTick [.exit, .hex 7]] }
    t.readV 0 = 0x11 ∧ t.run = .stoppedExit ∧ t.counter (.hex 7) = some 1 := by decide +kernel
/-- R224: after a step that faulted no press matters. -/
theorem test_press_after_a_fault :
    let t := after { fresh [0x00, 0xEE] with inputs := [.instrTick [.exit, .hex 7]] }
    t.run = .stoppedFault ∧ t.counter (.hex 7) = none ∧ t.counter .exit = none := by decide +kernel
/-- KT15. -/
theorem test_frame_tick_counts_down :
    let t := after { State.reset with
      st := 1, cfg := { defaultParams with timers := .present }, inputs := [.frameTick] }
    t.dt = 0x00 ∧ t.st = 0x00 := by decide +kernel
/-- KT11, its second press. -/
theorem test_second_press_is_not_delivered :
    (after { State.reset with wait := .delivered 2, inputs := [.registerPress (.hex 8)] }).wait = .delivered 2 := by
  decide +kernel
/-- The host's placement of a table word is what the next step runs (log 19). -/
theorem test_with_fetch_word : (after (State.reset.withFetchWord 16 0x6A05)).readV 0xA = 0x05 := by decide +kernel

/-! ### Every hypothesis of a statement is met

One theorem per statement with hypotheses (`witness_<statement>`), with a case for each clause, at the boundary of
its range. -/

/-- The result is a next state, and it is `s`. -/
def isNext (o : Result) (s : State) : Bool :=
  match o with
  | .next t => decide (t = s)
  | .fault _ => false
  | .refused _ => false

theorem eq_of_isNext {o : Result} {s : State} (h : isNext o s = true) : o = .next s := by
  cases o with
  | next t => exact congrArg _ (of_decide_eq_true h)
  | fault _ => cases h
  | refused _ => cases h

/-- A running state whose next event is an instruction tick, with `bs` at its pc. -/
def ready (bs : List Byte) : State := { fresh bs with inputs := [.instrTick []] }

/-- A state that meets the invariant with a full stack, every key pressed and a byte written. -/
def busy : State :=
  { (fresh [0x00, 0xEE]).storeBytes 0x300 [0x01] with
    sp := 16, stack := Vector.replicate 16 0x1000, hexKeys := Vector.replicate 16 (some 1), exitKey := some 1 }

theorem busy_legal : LegalState busy where
  mem_canonical := by decide +kernel
  pc_bound := by decide +kernel
  stack_bound := by decide +kernel
  keys_legal := by
    have hex : ∀ k : Nibble, busy.counter (.hex k) = some 1 := by decide +kernel
    intro k n h
    cases k with
    | hex k => rw [hex k] at h; cases h; decide
    | exit => cases h; decide
  record_iff := by decide +kernel
  record_legal := by intro r h; cases h

/-- The longest image and one byte more; the last byte of FONT, both ends of the cells between FONT and the image, and
the first and the last address past a short image. -/
theorem witness_LaunchPlacesTheImage :
    (List.replicate 3584 (0xFF : Byte)).length ≤ 3584 ∧ 3584 < (List.replicate 3585 (0xFF : Byte)).length ∧
    3583 < (List.replicate 3584 (0xFF : Byte)).length ∧ 0x04F < 80 ∧ (0x050 ≤ 0x050 ∧ 0x050 < 0x200) ∧
    (0x050 ≤ 0x1FF ∧ 0x1FF < 0x200) ∧
    (∀ a, a = 0x201 ∨ a = 0xFFF → 0x200 + [(0xFF : Byte)].length ≤ a ∧ a < 0x1000) := by
  rw [List.length_replicate, List.length_replicate]
  refine ⟨by decide, by decide, by decide, by decide, by decide, by decide, fun a h => ?_⟩
  rcases h with rfl | rfl <;> decide

/-- R241: the reset state is the launch of the empty image with every parameter at its default. -/
theorem test_launch_with_the_defaults :
    boot defaultParams resetV resetI initMem defaultFont [] = .next State.reset := boot_default

theorem witness_EveryStepKeepsTheInvariant : LegalState busy ∧ ∃ t, step busy = .next t := ⟨busy_legal, _, rfl⟩

theorem witness_DecodeOfEncodeIsTheInstruction : (Instr.drw 0xF 0xF 0xF).wellFormed = true := by decide

theorem witness_EncodeOfDecodeIsTheWord : decode 0xDFFF = .ok (.drw 0xF 0xF 0xF) := by decide

theorem witness_ExactlyOneRowSelectsALegalWord :
    decode 0xFF65 = .ok (.ldVxMem 0xF) ∧ Instr.row (.ldVxMem 0xF) ∈ opcodeTable ∧
    (Instr.row (.ldVxMem 0xF)).selects 0xFF65 = true ∧ ∀ r ∈ opcodeTable, r.selects 0xFFFF = false := by decide

/-- With a tick to come that carries a press, at the last address an instruction can start from, and with none. -/
theorem witness_StepRunsTheDecodedInstruction :
    let s := { State.reset.storeBytes 0xFFE [0x60, 0x11] with pc := 0x0FFE, inputs := [.instrTick [.hex 3]] }
    let u := { fresh [0x60, 0x11] with div := 8 }
    (s.run = .running ∧ s.nextEvent = .instrTick [.hex 3] ∧ s.pc.toNat < 0xFFF ∧
      decode (joinBytes (s.readByte s.pc.toNat) (s.readByte (s.pc.toNat + 1))) = .ok (.ldImm 0 0x11)) ∧
    (u.run = .running ∧ u.nextEvent = .instrTick [] ∧ u.pc.toNat < 0xFFF ∧ u.inputs = [] ∧
      decode (joinBytes (u.readByte u.pc.toNat) (u.readByte (u.pc.toNat + 1))) = .ok (.ldImm 0 0x11)) := by
  decide +kernel

theorem witness_FetchReadsTwoBytesHighFirst :
    let at_ := fun pc : Word => { State.reset with pc := pc, inputs := [.instrTick []] }
    (at_ 0x0FFE).pc.toNat < 0xFFF ∧
    ((at_ 0x1000).run = .running ∧ (at_ 0x1000).nextEvent = .instrTick [] ∧ 0x1000 ≤ (at_ 0x1000).pc.toNat) ∧
    ((at_ 0x0FFF).run = .running ∧ (at_ 0x0FFF).nextEvent = .instrTick [] ∧ (at_ 0x0FFF).pc.toNat = 0xFFF) := by
  decide +kernel

/-- One word of each group R90 lists. -/
theorem witness_IllegalWordStopsTheRun :
    (IllegalWord 0x00E1 ∧ IllegalWord 0x5001 ∧ IllegalWord 0x9001 ∧ IllegalWord 0x8008 ∧ IllegalWord 0xB000 ∧
      IllegalWord 0xE09F ∧ IllegalWord 0xF066) ∧
    (let s := ready [0xB1, 0x23]
     s.run = .running ∧ s.nextEvent = .instrTick [] ∧ s.pc.toNat < 0xFFF ∧
       joinBytes (s.readByte s.pc.toNat) (s.readByte (s.pc.toNat + 1)) = 0xB123 ∧ IllegalWord 0xB123) := by
  constructor
  · refine ⟨?_, ?_, ?_, ?_, ?_, ?_, ?_⟩ <;> (unfold IllegalWord; decide)
  · refine ⟨rfl, rfl, by decide, by decide +kernel, ?_⟩
    exact .inr (.inr (.inr (.inl (by decide))))

/-- EXIT not pressed, pressed before the step, and pressed between the step and the check; and a step that faults
with EXIT pressed. -/
theorem witness_ExitKeyEndsTheRunAfterAStep :
    let s := ready [0x60, 0x11]
    let p := { s with exitKey := some 1 }
    let b := { s with inputs := [.instrTick [.exit]] }
    let f := { ready [0x00, 0xEE] with exitKey := some 1 }
    (s.run = .running ∧ s.nextEvent = .instrTick [] ∧ s.isPressed .exit = false ∧ (after s).run = .running) ∧
    (p.run = .running ∧ p.nextEvent = .instrTick [] ∧ p.isPressed .exit = true ∧ (after p).run = .stoppedExit) ∧
    (b.run = .running ∧ b.nextEvent = .instrTick [.exit] ∧ b.isPressed .exit = false ∧
      (after b).run = .stoppedExit) ∧
    (f.run = .running ∧ f.nextEvent = .instrTick [] ∧ f.isPressed .exit = true ∧
      (after f).run = .stoppedFault) := by decide +kernel

/-- A waiting subscriber with EXIT and two hex keys between, and with EXIT alone; and one that waits for nothing. -/
theorem witness_PressesFallBetweenStepAndExitCheck :
    let s := { fresh [0x60, 0x11] with wait := .waiting, inputs := [.instrTick [.exit, .hex 7, .hex 3]] }
    let u := { s with wait := .delivered 2, inputs := [.instrTick [.exit]] }
    let w := fun q : State => ((q.setInputs []).writeV 0 0x11).advance
    (s.run = .running ∧ s.nextEvent = .instrTick [.exit, .hex 7, .hex 3] ∧
      (s.setInputs s.inputs.tail).runInstr = .next (w s) ∧ (w s).run = .running ∧ (w s).wait = .waiting ∧
      Key.hex 0 ∉ [.exit, .hex 7, .hex 3] ∧
      [Key.exit, .hex 7, .hex 3] = [.exit] ++ .hex 7 :: [.hex 3] ∧ ∀ k ∈ [Key.exit], k = .exit) ∧
    (u.run = .running ∧ u.nextEvent = .instrTick [.exit] ∧ (u.setInputs u.inputs.tail).runInstr = .next (w u) ∧
      (w u).run = .running ∧ (w u).wait ≠ .waiting) := by
  intro s u w
  refine ⟨⟨rfl, rfl, eq_of_isNext (by decide +kernel), rfl, rfl, by decide, rfl, by decide⟩,
    rfl, rfl, eq_of_isNext (by decide +kernel), rfl, by decide +kernel⟩

/-- A frame tick with timers, at 1 and at 0, and a later event; and one without timers. -/
theorem witness_FrameTickFlushesAgesAndCountsDown :
    let s := { busy with
      dt := 1, st := 0, cfg := { defaultParams with timers := .present }, inputs := [.frameTick, .frameTick] }
    let u := { State.reset with inputs := [.frameTick] }
    (s.run = .running ∧ s.nextEvent = .frameTick ∧ s.cfg.timers = .present ∧ s.counter (.hex 0xF) = some 1) ∧
    (u.run = .running ∧ u.nextEvent = .frameTick ∧ u.cfg.timers = .absent ∧ u.counter .exit = none) := by
  decide +kernel

theorem witness_RegisterPressStartsTheCounterAndDelivers :
    let s := { State.reset with wait := .waiting, inputs := [.registerPress (.hex 0xF)] }
    let u := { State.reset with wait := .waiting, inputs := [.registerPress .exit] }
    let w := { State.reset with wait := .delivered 2, inputs := [.registerPress (.hex 8)] }
    (s.run = .running ∧ s.nextEvent = .registerPress (.hex 0xF) ∧ s.wait = .waiting ∧ Key.exit ≠ .hex 0xF) ∧
    (u.run = .running ∧ u.nextEvent = .registerPress .exit) ∧
    (w.run = .running ∧ w.nextEvent = .registerPress (.hex 8) ∧ w.wait ≠ .waiting) := by decide +kernel

theorem witness_StoppedMachineNeverChanges :
    { State.reset with run := .stoppedExit, inputs := [.registerPress (.hex 3)] }.run ≠ .running ∧
    { State.reset with run := .stoppedFault }.run ≠ .running := by decide

/-- The first instruction tick of a period, the eighth and the ninth. -/
theorem witness_ReferenceScheduleIsNineToOne :
    let at_ := fun d : Fin 9 => { fresh [0x12, 0x00] with div := d }
    ∀ d, d = 0 ∨ d = 7 ∨ d = 8 → (at_ d).run = .running ∧ (at_ d).inputs = [] ∧
      step (at_ d) = .next (after (at_ d)) ∧ (after (at_ d)).run = .running := by
  rintro at_ d (rfl | rfl | rfl) <;> exact ⟨rfl, rfl, eq_of_isNext (by decide +kernel), by decide +kernel⟩

theorem witness_FaultingStepHasNoOtherEffect :
    let s := ready [0xF0, 0x33]
    let u := { s with i := 0x0FFE }
    u.run = .running ∧ u.nextEvent = .instrTick [] ∧ step u = .next (after u) ∧ (after u).run = .stoppedFault :=
  ⟨rfl, rfl, rfl, by decide +kernel⟩

theorem witness_NoStepChangesTheParameters : step busy = .next (after busy) := rfl

theorem witness_AbsentTimersNeverChange :
    let s := ready [0xF1, 0x15]
    s.cfg.timers = .absent ∧ step s = .next (after s) := ⟨rfl, rfl⟩

/-- A program that jumps to itself, which both clocks leave as it is once the host has been given the picture. -/
theorem witness_UnpressedKeysAreReleasedUnderFairness :
    let s := { fresh [0x12, 0x00] with shown := some State.reset.fb }
    let e : Nat → Event := fun n => if n % 2 = 0 then .instrTick [] else .frameTick
    let r : Nat → State := fun _ => s
    RunUnder e r ∧ FairSchedule e ∧ (∀ n, (r n).run = .running) ∧ ∀ m, 0 ≤ m → ¬ Presses (e m) (.hex 5) := by
  intro s e r
  have hi : s.handle (.instrTick []) = .next s := eq_of_isNext (by decide +kernel)
  have hf : s.handle .frameTick = .next s := eq_of_isNext (by decide +kernel)
  refine ⟨?_, ⟨fun n => ⟨2 * n, [], by omega, if_pos (by omega)⟩,
    fun n => ⟨2 * n + 1, by omega, if_neg (by omega)⟩⟩, fun _ => rfl, ?_⟩
  · intro n _
    show s.handle (if n % 2 = 0 then .instrTick [] else .frameTick) = .next s
    split
    · exact hi
    · exact hf
  · intro m _
    show ¬ Presses (if m % 2 = 0 then .instrTick [] else .frameTick) (.hex 5)
    split
    · exact List.not_mem_nil
    · exact id

theorem witness_EveryInstructionKeepsItsFrame : exec (.call 0x300) State.reset =
    .next { State.reset with stack := State.reset.stack.set 0 0x0202, sp := 1, pc := 0x0300 } := rfl

/-- A register that is not written, and one that is. -/
theorem witness_RegistersAreWrittenAsListed : ∃ t, exec (.addReg 0 1) busy = .next t ∧
    ¬ writesReg (.addReg 0 1) 1 ∧ writesReg (.addReg 0 1) 0xF := by
  exact ⟨_, rfl, by unfold writesReg; decide, by unfold writesReg; decide⟩

/-- Running, with a key down and not, and with a key available to Fx0A and not. -/
theorem witness_PcMovesAsListed :
    State.reset.run = .running ∧ KeyDown busy 0x0F ∧ ¬ KeyDown State.reset 0x0F ∧ NoKeyAvailable State.reset ∧
    ¬ NoKeyAvailable busy := by
  refine ⟨rfl, ⟨0xF, by decide, by decide +kernel⟩, ?_, ?_, fun h => ?_⟩
  · rintro ⟨k, _, h⟩
    have all : ∀ k : Nibble, State.reset.counter (.hex k) = none := by decide +kernel
    exact h (all k)
  · show ∀ k, State.reset.counter (.hex k) = none
    decide +kernel
  · have h : ∀ k, busy.counter (.hex k) = none := h
    exact absurd (h 0) (by decide +kernel)

theorem witness_CallPushesTheNextAddressAndJumps :
    { busy with sp := 15 }.sp.val < 16 ∧ busy.sp.val = 16 := by decide +kernel

theorem witness_ReturnPopsPc : busy.sp.val ≠ 0 ∧ { busy with sp := 1 }.sp.val ≠ 0 ∧ State.reset.sp.val = 0 := by
  decide +kernel

/-- The last free entry, and the entry below it. -/
theorem witness_ReturnResumesAfterTheCall :
    { busy with sp := 15 }.sp.val < 16 ∧ 14 < 16 ∧ 14 ≠ { busy with sp := 15 }.sp.val := by decide +kernel

/-- Equal and unequal operands of the four comparisons. -/
theorem witness_ComparisonsSkip :
    let s := reg 3 0x2A State.reset
    s.readV 3 = 0x2A ∧ s.readV 3 ≠ 0x2B ∧ s.readV 3 = s.readV 3 ∧ s.readV 3 ≠ s.readV 4 := by decide +kernel

/-- A bit that is clear in nn. -/
theorem witness_RandomByteIsMasked : (0xF0 : Byte).getLsbD 0 = false := by decide

/-- The last three bytes of memory, the first I that is too high, and an I that is out of range itself. -/
theorem witness_StoreDecimalDigits :
    let at_ := fun i : Word => { State.reset with i := i }
    ((at_ 0x0FFD).i.toNat + 2 < 0x1000) ∧
    (0x1000 ≤ (at_ 0x0FFE).i.toNat + 2 ∧ ¬ 0x1000 ≤ (at_ 0x0FFE).i.toNat) ∧
    (0x1000 ≤ (at_ 0xFFFF).i.toNat + 2 ∧ 0x1000 ≤ (at_ 0xFFFF).i.toNat) ∧
    (0x0FFC < (at_ 0x0FFD).i.toNat ∨ (at_ 0x0FFD).i.toNat + 2 < 0x0FFC) := by decide

theorem witness_StoreRegisters :
    let at_ := fun i : Word => { State.reset with i := i }
    ((at_ 0x0FF0).i.toNat + (0xF : Nibble).toNat < 0x1000 ∧ (0xF : Nibble).toNat ≤ (0xF : Nibble).toNat) ∧
    (0x1000 ≤ (at_ 0x0FF1).i.toNat + (0xF : Nibble).toNat ∧ ¬ 0x1000 ≤ (at_ 0x0FF1).i.toNat) ∧
    (0x1000 ≤ (at_ 0x1000).i.toNat + (0x0 : Nibble).toNat ∧ 0x1000 ≤ (at_ 0x1000).i.toNat) := by decide

theorem witness_LoadRegisters :
    let at_ := fun i : Word => { State.reset with i := i }
    ((at_ 0x0FF1).i.toNat + (0xE : Nibble).toNat < 0x1000 ∧ (0xE : Nibble).toNat < (0xF : Nibble).toNat) ∧
    (0x1000 ≤ (at_ 0x0FF1).i.toNat + (0xF : Nibble).toNat ∧ ¬ 0x1000 ≤ (at_ 0x0FF1).i.toNat) ∧
    (0x1000 ≤ (at_ 0x1000).i.toNat + (0x0 : Nibble).toNat ∧ 0x1000 ≤ (at_ 0x1000).i.toNat) := by decide

/-- Another state with the memory and I that LD [I], Vx leaves. -/
theorem witness_LoadRestoresWhatWasStored :
    let s := { busy with i := 0x0FF0 }
    let u := { State.reset with mem := (s.storeBytes 0xFF0 (s.regsUpTo 0xF)).mem, i := 0x0FF0 }
    s.i.toNat + (0xF : Nibble).toNat < 0x1000 ∧ exec (.ldMemVx 0xF) s = .next { u with
      v := s.v, pc := 0x0202, sp := s.sp, stack := s.stack, hexKeys := s.hexKeys, exitKey := s.exitKey } ∧
    u.i = s.i := by
  exact ⟨by decide, rfl, rfl⟩

/-- The last two bytes of memory, fetched at 0xFFE. -/
theorem witness_StoredBytesAreFetched :
    let s := { busy with i := 0x0FFE }
    let u := { State.reset with mem := (s.storeBytes 0xFFE (s.regsUpTo 1)).mem, pc := 0x0FFE }
    s.i.toNat + (1 : Nibble).toNat < 0x1000 ∧ (∃ t, exec (.ldMemVx 1) s = .next t ∧ u.mem = t.mem) ∧
    0 + 1 ≤ (1 : Nibble).toNat ∧ u.pc.toNat = s.i.toNat + 0 := by
  exact ⟨by decide, ⟨_, rfl, rfl⟩, by decide, by decide⟩

/-- Both ends of each region (R64); no address is in two clauses. -/
theorem witness_AddressDecoderRegions :
    decodeAddr 0x1000 = none ∧ decodeAddr 0x000 = some .font ∧ decodeAddr 0x04F = some .font ∧
    decodeAddr 0x050 = some .low ∧ decodeAddr 0x1FF = some .low ∧ decodeAddr 0x200 = some .program ∧
    decodeAddr 0xFFF = some .program := by decide

/-- No row, the last address, one too high, and I out of range; a covered pixel that is on, one that is off, and one
that is not covered. -/
theorem witness_DrawFlipsTheCoveredPixels :
    let s := { State.reset.storeBytes 0xFFF [0x80] with i := 0x0FFF }
    let u := { s with fb := clearFrame.set 0 1 }
    (0x0 : Nibble).toNat = 0 ∧ s.i.toNat + (1 : Nibble).toNat - 1 < 0x1000 ∧
    ((2 : Nibble).toNat ≠ 0 ∧ 0x1000 ≤ s.i.toNat + (2 : Nibble).toNat - 1 ∧ ¬ 0x1000 ≤ s.i.toNat) ∧
    (0x1000 ≤ { s with i := 0xFFFF }.i.toNat + (1 : Nibble).toNat - 1 ∧ 0x1000 ≤ { s with i := 0xFFFF }.i.toNat) ∧
    (SpriteCovers s 0 0 1 0 ∧ pixel s.fb 0 = false) ∧ (SpriteCovers u 0 0 1 0 ∧ pixel u.fb 0 = true) ∧
    ¬ SpriteCovers s 0 0 0 0 := by
  refine ⟨by decide, by decide, by decide, by decide, ⟨⟨0, 0, by decide, by decide, by decide +kernel, ?_⟩, ?_⟩,
    ⟨⟨0, 0, by decide, by decide, by decide +kernel, ?_⟩, ?_⟩, ?_⟩
  · decide +kernel
  · decide +kernel
  · decide +kernel
  · decide +kernel
  · rintro ⟨dy, _, h, _⟩
    exact absurd h (Nat.not_lt_zero dy)

theorem witness_DrawingTwiceErases : (List.replicate 15 (0x80 : Byte)).length ≤ 15 ∧
    (∀ p, pixel clearFrame p = false) ∧ ∃ b ∈ List.replicate 15 (0x80 : Byte), b ≠ 0 :=
  ⟨by decide, pixel_clearFrame, 0x80, by decide, by decide⟩

/-- Key F, pressed and not, and the first number that names no key. -/
theorem witness_KeySkipsTestTheNamedKey :
    let s := reg 1 0x10 (reg 0 0x0F busy)
    ((s.readV 0).toNat = (0xF : Nibble).toNat ∧ s.counter (.hex 0xF) ≠ none) ∧
    (((reg 0 0x0F State.reset).readV 0).toNat = (0xF : Nibble).toNat ∧
      (reg 0 0x0F State.reset).counter (.hex 0xF) = none) ∧
    0x10 ≤ (s.readV 1).toNat := by decide +kernel

/-- Both modes, with no key, one key and many; and the three states of the subscriber. -/
theorem witness_WaitForKey :
    let one := { State.reset with hexKeys := State.reset.hexKeys.set 0xF (some 1) }
    let next := { State.reset with cfg := { defaultParams with fx0aMode := .nextPress } }
    (State.reset.cfg.fx0aMode = .pressedButton ∧ ∀ k, State.reset.counter (.hex k) = none) ∧
    (one.cfg.fx0aMode = .pressedButton ∧ ∃ k, one.counter (.hex k) ≠ none) ∧
    (busy.cfg.fx0aMode = .pressedButton ∧ ∃ k, busy.counter (.hex k) ≠ none) ∧
    (next.cfg.fx0aMode = .nextPress ∧ next.wait = .none) ∧
    ({ next with wait := .waiting }.cfg.fx0aMode = .nextPress ∧ { next with wait := .waiting }.wait = .waiting) ∧
    ({ next with wait := .delivered 6 }.cfg.fx0aMode = .nextPress ∧
      { next with wait := .delivered 6 }.wait = .delivered 6) :=
  ⟨⟨rfl, by decide +kernel⟩, ⟨rfl, 0xF, by decide +kernel⟩, ⟨rfl, 0, by decide +kernel⟩, ⟨rfl, rfl⟩, ⟨rfl, rfl⟩,
    rfl, rfl⟩

theorem witness_TimerInstructions : State.reset.cfg.timers = .absent ∧
    { State.reset with cfg := { defaultParams with timers := .present } }.cfg.timers = .present := by decide

end Sys2Proof.Tests
end

section
/-! SUPPORT. What a launch answers (70_reset_and_hazards.md R240, R244), and the proof of O2. -/

namespace Sys2Proof.Machine

/-- The state a launch starts from: the reset state with the parameters, RESET_V, RESET_I and the filled memory
(R240, R241). -/
def launchState (cfg : Config.Params) (v : Vector Byte 16) (i : Word) (fill : Byte) (glyphs : Vector Byte 80)
    (image : List Byte) : State :=
  { State.reset with cfg := cfg, v := v, i := i, mem := bootMemory fill glyphs image }

section
variable (cfg : Config.Params) (v : Vector Byte 16) (i : Word) (fill : Byte) (glyphs : Vector Byte 80)

/-! ### The two answers of `boot` -/

theorem boot_of_image_fits {image : List Byte} (h : image.length ≤ 3584) :
    boot cfg v i fill glyphs image = .next (launchState cfg v i fill glyphs image) :=
  if_pos (decide_eq_true h)

theorem boot_of_image_too_long {image : List Byte} (h : 3584 < image.length) :
    boot cfg v i fill glyphs image = .refused (.imageTooLong image.length) :=
  if_neg fun hw => absurd (of_decide_eq_true hw) (Nat.not_le_of_lt h)

/-! ### Memory at launch -/

theorem readByte_launchState_image (image : List Byte) (k : Nat) (h : k < image.length) :
    (launchState cfg v i fill glyphs image).readByte (0x200 + k) = image[k] :=
  read_writeBytes_inside _ Config.programBase image k h

theorem readByte_launchState_font (image : List Byte) (k : Nat) (h : k < 80) :
    (launchState cfg v i fill glyphs image).readByte k = glyphs[k] := by
  change (bootMemory fill glyphs image).read k = _
  rw [read_bootMemory, if_neg (by omega), dif_pos h]

theorem readByte_launchState_fill (image : List Byte) (a : Nat)
    (h : (0x050 ≤ a ∧ a < 0x200) ∨ (0x200 + image.length ≤ a ∧ a < 0x1000)) :
    (launchState cfg v i fill glyphs image).readByte a = fill := by
  change (bootMemory fill glyphs image).read a = _
  rw [read_bootMemory, if_neg (by omega), dif_neg (by omega), if_pos (by omega)]

/-! ### The rest of the state at launch -/

theorem launchState_onlyChanges (image : List Byte) :
    OnlyChanges [.v, .i, .mem, .cfg] State.reset (launchState cfg v i fill glyphs image) := by
  intro p hp
  cases p
  case v | i | mem | cfg => exact absurd hp (by decide)
  case stack | run | timers => exact ⟨rfl, rfl⟩
  case keys => exact fun k => counter_congr rfl rfl k
  case fb => exact fun _ => rfl
  case pc | wait | div | draws | shown | inputs => rfl

/-- At launch no key is pressed (10_state.md R45). -/
theorem counter_launchState (image : List Byte) (k : Key) :
    (launchState cfg v i fill glyphs image).counter k = none := by
  cases k with
  | hex k => exact Vector.getElem_replicate k.isLt
  | exit => rfl

theorem launchState_legal {image : List Byte} (h : image.length ≤ 3584) :
    LegalState (launchState cfg v i fill glyphs image) where
  mem_canonical := wf_bootMemory fill glyphs h
  pc_bound := by change (0x0200 : Word).toNat ≤ 0x1002; decide
  stack_bound := fun _ hk => absurd hk (Nat.not_lt_zero _)
  keys_legal := fun k n hn => by rw [counter_launchState] at hn; cases hn
  record_iff := by change (none : Option FaultRecord).isSome = true ↔ RunState.running = .stoppedFault; decide
  record_legal := fun _ hr => nomatch hr

end

/-- Settles O2: the launch state's memory is read region by region, and its other parts are the reset state's. -/
theorem launchPlacesTheImage : Obligations.LaunchPlacesTheImage := by
  intro cfg v i fill glyphs image
  refine ⟨fun h => ⟨launchState cfg v i fill glyphs image, boot_of_image_fits cfg v i fill glyphs h,
    rfl, rfl, rfl, rfl, ?image, ?font, ?fill, ?frame, ?legal⟩, boot_of_image_too_long cfg v i fill glyphs⟩
  case image => exact readByte_launchState_image cfg v i fill glyphs image
  case font => exact readByte_launchState_font cfg v i fill glyphs image
  case fill => exact readByte_launchState_fill cfg v i fill glyphs image
  case frame => exact launchState_onlyChanges cfg v i fill glyphs image
  case legal => exact launchState_legal cfg v i fill glyphs h

end Sys2Proof.Machine
end

section
/-! SUPPORT. What one step of R94 and one transition can do, said once, and the proof of O20. -/

namespace Sys2Proof.Machine

/-- A fetched word is a DecodeError, or its instruction raises a fatal condition or completes (R210, R215). -/
theorem runWord_cases (s : State) (b0 b1 : Byte) :
    (∃ r, s.runWord b0 b1 = .next (s.stopFault r)) ∨ ∃ t, s.runWord b0 b1 = .next t ∧ Completed s t := by
  unfold State.runWord
  cases decode (joinBytes b0 b1) with
  | error e => exact .inl ⟨_, rfl⟩
  | ok ins =>
    rcases exec_cases ins s with ⟨kind, addr, hx, -⟩ | ⟨t, hx, hc⟩
    · exact .inl ⟨_, hx⟩
    · exact .inr ⟨t, hx, hc⟩

/-- `step()` of R94 stops on a fatal condition and changes nothing else (60_exceptions.md R215, R221), or it completes
an instruction. -/
theorem runInstr_cases (s : State) :
    (∃ r, s.runInstr = .next (s.stopFault r)) ∨ ∃ t, s.runInstr = .next t ∧ Completed s t := by
  unfold State.runInstr
  cases s.fetch with
  | error r => exact .inl ⟨r, rfl⟩
  | ok b => exact runWord_cases s b.1 b.2

/-- An instruction tick always answers a state: `step()`'s, with the presses after it and the exit check (R221). -/
theorem instrTick_cases (s : State) (ks : List Key) :
    ∃ w, s.runInstr = .next w ∧ s.instrTick ks = .next (w.pressBetween ks).exitCheck ∧
      ((∃ r, w = s.stopFault r) ∨ Completed s w) := by
  unfold State.instrTick
  rcases runInstr_cases s with ⟨r, h⟩ | ⟨w, h, hc⟩
  · exact ⟨_, h, by rw [h], .inl ⟨r, rfl⟩⟩
  · exact ⟨w, h, by rw [h], .inr hc⟩

theorem instrTick_cfg {s t : State} {ks : List Key} (h : s.instrTick ks = .next t) : t.cfg = s.cfg := by
  obtain ⟨w, -, ht, hw⟩ := instrTick_cases s ks
  have hcfg : w.cfg = s.cfg := by
    rcases hw with ⟨r, rfl⟩ | hc
    · exact stopFault_cfg s r
    · exact hc.cfg
  rw [ht] at h
  cases h
  rw [exitCheck_cfg, pressBetween_cfg, hcfg]

theorem handle_cfg {s t : State} {e : Event} (h : s.handle e = .next t) : t.cfg = s.cfg := by
  cases e with
  | instrTick ks => exact instrTick_cfg h
  | frameTick => cases h; exact frameTick_cfg s
  | registerPress k => cases h; exact registerPress_cfg s k

theorem referenceTick_cfg {s t : State} (h : s.referenceTick = .next t) : t.cfg = s.cfg := by
  unfold State.referenceTick at h
  split at h
  · next u hu => cases h; rw [countTick_cfg, instrTick_cfg hu]
  · cases h
  · cases h

/-- Settles O20: whichever event the transition takes, its handler leaves the parameters alone. -/
theorem noStepChangesTheParameters : Obligations.NoStepChangesTheParameters := by
  intro s t h
  change s.transition = .next t at h
  by_cases hr : s.run = .running
  · cases hi : s.inputs with
    | nil =>
      rw [transition_reference s hr hi] at h
      exact referenceTick_cfg h
    | cons e rest =>
      rw [transition_input s hr hi] at h
      rw [handle_cfg h, setInputs_cfg]
  · rw [transition_stopped s hr] at h
    cases h
    rfl

end Sys2Proof.Machine
end

section
/-! SUPPORT. The frames of the state's operations and of every instruction: which parts keep their value, and the
proof of O23. -/

namespace Sys2Proof.Machine

/-! ### Parts that keep their value -/

/-- What a part holds. -/
def PartValue : Part → Type
  | .v => Vector Byte 16
  | .i | .pc => Word
  | .stack => Fin 17 × Vector Word 16
  | .mem => Memory
  | .fb => Frame
  | .keys => Vector (Option Nat) 16 × Option Nat
  | .wait => Wait
  | .run => RunState × Option FaultRecord
  | .div => Fin 9
  | .timers => Byte × Byte
  | .cfg => Config.Params
  | .draws => Nat
  | .shown => Option Frame
  | .inputs => List Event

/-- The part's fields in a state. -/
def State.part (s : State) : (p : Part) → PartValue p
  | .v => s.v
  | .i => s.i
  | .pc => s.pc
  | .stack => (s.sp, s.stack)
  | .mem => s.mem
  | .fb => s.fb
  | .keys => (s.hexKeys, s.exitKey)
  | .wait => s.wait
  | .run => (s.run, s.record)
  | .div => s.div
  | .timers => (s.dt, s.st)
  | .cfg => s.cfg
  | .draws => s.draws
  | .shown => s.shown
  | .inputs => s.inputs

/-- Fields that are equal read alike: `SamePart`'s reads of registers, memory, pixels and key counters follow. -/
theorem samePart_of_part_eq {s t : State} {p : Part} (h : t.part p = s.part p) : SamePart s t p := by
  cases p
  case v => exact readV_congr h
  case mem => exact readByte_congr h
  case fb => exact fun q => congrArg (pixel · q) h
  case keys => exact counter_congr (congrArg Prod.fst h) (congrArg Prod.snd h)
  case stack | run | timers => exact ⟨congrArg Prod.fst h, congrArg Prod.snd h⟩
  all_goals exact h

/-- Every part but the listed ones keeps its value. -/
def OnlyWrites (parts : List Part) (s t : State) : Prop := ∀ p, p ∉ parts → t.part p = s.part p

theorem OnlyWrites.onlyChanges {parts : List Part} {s t : State} (h : OnlyWrites parts s t) : OnlyChanges parts s t :=
  fun p hp => samePart_of_part_eq (h p hp)

theorem OnlyWrites.refl (parts : List Part) (s : State) : OnlyWrites parts s s := fun _ _ => rfl

theorem OnlyWrites.mono {ps qs : List Part} {s t : State} (h : OnlyWrites ps s t) (hs : ps ⊆ qs) : OnlyWrites qs s t :=
  fun p hp => h p fun hm => hp (hs hm)

/-- One operation after another writes what either writes. -/
theorem OnlyWrites.trans {ps qs : List Part} {s t u : State} (h : OnlyWrites ps s t) (h' : OnlyWrites qs t u) :
    OnlyWrites (ps ++ qs) s u := fun p hp =>
  (h' p fun hm => hp (List.mem_append_right ps hm)).trans (h p fun hm => hp (List.mem_append_left qs hm))

/-! ### The operations -/

theorem withV_onlyWrites (s : State) (v : Vector Byte 16) : OnlyWrites [.v] s { s with v := v } := by
  intro p hp
  cases p
  case v => exact absurd hp (by decide)
  all_goals rfl

theorem writeV_onlyWrites (s : State) (x : Nibble) (b : Byte) : OnlyWrites [.v] s (s.writeV x b) :=
  withV_onlyWrites s _

theorem loadRegs_onlyWrites (s : State) (x : Nibble) : OnlyWrites [.v] s (s.loadRegs x) := withV_onlyWrites s _

theorem writeResultAndFlag_onlyWrites (s : State) (x : Nibble) (res flag : Byte) :
    OnlyWrites [.v] s (s.writeResultAndFlag x res flag) := by
  have two (y z : Nibble) (a b : Byte) : OnlyWrites [.v] s ((s.writeV y a).writeV z b) :=
    ((writeV_onlyWrites s y a).trans (writeV_onlyWrites _ z b)).mono (by decide)
  unfold State.writeResultAndFlag
  split
  · exact two x vf res flag
  · exact two vf x flag res

theorem writeI_onlyWrites (s : State) (w : Word) : OnlyWrites [.i] s (s.writeI w) := by
  intro p hp
  cases p
  case i => exact absurd hp (by decide)
  all_goals rfl

theorem setPc_onlyWrites (s : State) (w : Word) : OnlyWrites [.pc] s (s.setPc w) := by
  intro p hp
  cases p
  case pc => exact absurd hp (by decide)
  all_goals rfl

theorem advance_onlyWrites (s : State) : OnlyWrites [.pc] s s.advance := setPc_onlyWrites s _

theorem skipIf_onlyWrites (s : State) (c : Bool) : OnlyWrites [.pc] s (s.skipIf c) := setPc_onlyWrites s _

theorem push_onlyWrites {s t : State} {w : Word} (h : s.push w = some t) : OnlyWrites [.stack] s t := by
  obtain ⟨_, rfl⟩ := push_eq_some.mp h
  intro p hp
  cases p
  case stack => exact absurd hp (by decide)
  all_goals rfl

theorem pop_onlyWrites {s t : State} {w : Word} (h : s.pop = some (w, t)) : OnlyWrites [.stack] s t := by
  obtain ⟨-, -, rfl⟩ := pop_eq_some.mp h
  intro p hp
  cases p
  case stack => exact absurd hp (by decide)
  all_goals rfl

theorem storeBytes_onlyWrites (s : State) (a : Nat) (bs : List Byte) : OnlyWrites [.mem] s (s.storeBytes a bs) := by
  intro p hp
  cases p
  case mem => exact absurd hp (by decide)
  all_goals rfl

theorem setFb_onlyWrites (s : State) (fb : Frame) : OnlyWrites [.fb] s (s.setFb fb) := by
  intro p hp
  cases p
  case fb => exact absurd hp (by decide)
  all_goals rfl

theorem nextDraw_onlyWrites (s : State) : OnlyWrites [.draws] s s.nextDraw := by
  intro p hp
  cases p
  case draws => exact absurd hp (by decide)
  all_goals rfl

theorem setWait_onlyWrites (s : State) (w : Wait) : OnlyWrites [.wait] s (s.setWait w) := by
  intro p hp
  cases p
  case wait => exact absurd hp (by decide)
  all_goals rfl

theorem setDt_onlyWrites (s : State) (b : Byte) : OnlyWrites [.timers] s (s.setDt b) := by
  intro p hp
  cases p
  case timers => exact absurd hp (by decide)
  all_goals rfl

theorem setSt_onlyWrites (s : State) (b : Byte) : OnlyWrites [.timers] s (s.setSt b) := by
  intro p hp
  cases p
  case timers => exact absurd hp (by decide)
  all_goals rfl

theorem stopFault_onlyWrites (s : State) (r : FaultRecord) : OnlyWrites [.run] s (s.stopFault r) := by
  intro p hp
  cases p
  case run => exact absurd hp (by decide)
  all_goals rfl

/-! ### The forms several instructions share -/

theorem writeV_advance_onlyWrites (s : State) (x : Nibble) (b : Byte) : OnlyWrites [.v, .pc] s (s.writeV x b).advance :=
  (writeV_onlyWrites s x b).trans (advance_onlyWrites _)

theorem writeI_advance_onlyWrites (s : State) (w : Word) : OnlyWrites [.i, .pc] s (s.writeI w).advance :=
  (writeI_onlyWrites s w).trans (advance_onlyWrites _)

theorem aluFlag_onlyWrites (s : State) (x : Nibble) (res flag : Byte) :
    OnlyWrites [.v, .pc] s (s.writeResultAndFlag x res flag).advance :=
  (writeResultAndFlag_onlyWrites s x res flag).trans (advance_onlyWrites _)

theorem storeBytes_advance_onlyWrites (s : State) (a : Nat) (bs : List Byte) :
    OnlyWrites [.mem, .pc] s (s.storeBytes a bs).advance :=
  (storeBytes_onlyWrites s a bs).trans (advance_onlyWrites _)

theorem rnd_onlyWrites (s : State) (x : Nibble) (b : Byte) :
    OnlyWrites [.v, .pc, .draws] s (s.nextDraw.writeV x b).advance :=
  ((nextDraw_onlyWrites s).trans (writeV_advance_onlyWrites _ x b)).mono (by decide)

/-- A fatal condition writes the run alone (60_exceptions.md R215). -/
theorem raise_onlyWrites {s t : State} {kind : FaultKind} {ins : Instr} {addr : Option Nat}
    (h : s.raise kind ins addr = .next t) : OnlyWrites [.run] s t := by
  cases h
  exact stopFault_onlyWrites s _

/-- A checked access writes what it is to write, or the run. -/
theorem checked_onlyWrites {parts : List Part} {s t u : State} {n : Nat} {ins : Instr}
    (h : s.checked n ins u = .next t) (hu : OnlyWrites parts s u) : OnlyWrites (parts ++ [.run]) s t := by
  rcases checked_cases s n ins u with ⟨-, e⟩ | ⟨-, -, e⟩
  · cases e.symm.trans h
    exact hu.mono (List.subset_append_left _ _)
  · exact (raise_onlyWrites (e.symm.trans h)).mono (List.subset_append_right _ _)

/-! ### The key operation of Fx0A -/

/-- Fx0A has no key, and at most subscribes; or it has one, and at most counts a draw or takes the delivered key from
the subscriber (45_keys_timers.md R192, R195, R199). -/
theorem takeKey_cases (s : State) :
    (NoKeyAvailable s ∧ ∃ t, s.takeKey = (none, t) ∧ OnlyWrites [.wait] s t) ∨
    (¬ NoKeyAvailable s ∧ ∃ k t, s.takeKey = (some k, t) ∧ OnlyWrites [.wait, .draws] s t) := by
  cases hm : s.cfg.fx0aMode with
  | pressedButton =>
    simp only [NoKeyAvailable, State.takeKey, hm]
    rcases pressedButton_cases s with ⟨hk, e⟩ | ⟨k, hk, e | e⟩
    · exact .inl ⟨fun k => by simpa [isPressed_eq] using hk k, s, e, .refl _ s⟩
    · exact .inr ⟨fun hn => by simp [isPressed_eq, hn k] at hk, k, s, e, .refl _ s⟩
    · exact .inr ⟨fun hn => by simp [isPressed_eq, hn k] at hk, k, s.nextDraw, e,
        (nextDraw_onlyWrites s).mono (by decide)⟩
  | nextPress =>
    simp only [NoKeyAvailable, State.takeKey, State.waitKey, hm]
    cases hw : s.wait with
    | none => exact .inl ⟨nofun, _, rfl, setWait_onlyWrites s _⟩
    | waiting => exact .inl ⟨nofun, s, rfl, .refl _ s⟩
    | delivered k => exact .inr ⟨fun hn => hn k rfl, k, _, rfl, (setWait_onlyWrites s _).mono (by decide)⟩

/-- Fx0A leaves pc while there is no key, and goes on when it has stored one. -/
theorem execLdVxK_cases (x : Nibble) (s : State) :
    (NoKeyAvailable s ∧ ∃ t, execLdVxK x s = .next t ∧ OnlyWrites [.wait] s t) ∨
    (¬ NoKeyAvailable s ∧ ∃ k t, execLdVxK x s = .next (t.writeV x k).advance ∧ OnlyWrites [.wait, .draws] s t) := by
  unfold execLdVxK
  rcases takeKey_cases s with ⟨hn, t, e, ht⟩ | ⟨hn, k, t, e, ht⟩
  · exact .inl ⟨hn, t, by rw [e], ht⟩
  · exact .inr ⟨hn, k.setWidth 8, t, by rw [e], ht⟩

/-! ### The instructions -/

/-- RET raises StackUnderflow, or takes the top entry as pc and leaves the entries as they were (R34, R100). -/
theorem execRet_cases (s : State) :
    (s.sp.val = 0 ∧ execRet s = s.raise .stackUnderflow .ret none) ∨
    (s.sp.val ≠ 0 ∧ ∃ t, execRet s = .next t ∧ t.pc = s.stack[s.sp.val - 1] ∧ t.sp.val = s.sp.val - 1 ∧
      t.stack = s.stack ∧ OnlyWrites [.stack, .pc] s t) := by
  unfold execRet
  cases hp : s.pop with
  | none => exact .inl ⟨pop_eq_none.mp hp, rfl⟩
  | some r =>
    obtain ⟨w, u⟩ := r
    obtain ⟨h0, rfl, hu⟩ := pop_eq_some.mp hp
    exact .inr ⟨h0, u.setPc _, rfl, rfl, by rw [hu, setPc_sp], by rw [hu, setPc_stack],
      (pop_onlyWrites hp).trans (setPc_onlyWrites u _)⟩

/-- CALL raises StackOverflow, or stores pc + 2 as the top entry and jumps (R33, R102). -/
theorem execCall_cases (nnn : Addr12) (s : State) :
    (s.sp.val = 16 ∧ execCall nnn s = s.raise .stackOverflow (.call nnn) none) ∨
    ∃ (h : s.sp.val < 16) (t : State), execCall nnn s = .next t ∧ t.pc = zext16 nnn ∧ t.sp.val = s.sp.val + 1 ∧
      t.stack = s.stack.set s.sp.val (s.pc + 2) h ∧ OnlyWrites [.stack, .pc] s t := by
  unfold execCall
  cases hp : s.push (s.pc + 2) with
  | none => exact .inl ⟨push_eq_none.mp hp, rfl⟩
  | some u =>
    obtain ⟨h, hu⟩ := push_eq_some.mp hp
    exact .inr ⟨h, u.setPc _, rfl, rfl, by rw [hu, setPc_sp], by rw [hu, setPc_stack],
      (push_onlyWrites hp).trans (setPc_onlyWrites u _)⟩

theorem execRet_onlyWrites {s t : State} (h : execRet s = .next t) : OnlyWrites [.stack, .pc, .run] s t := by
  rcases execRet_cases s with ⟨-, e⟩ | ⟨-, u, e, -, -, -, hu⟩
  · exact (raise_onlyWrites (e.symm.trans h)).mono (by decide)
  · cases e.symm.trans h
    exact hu.mono (by decide)

theorem execCall_onlyWrites {nnn : Addr12} {s t : State} (h : execCall nnn s = .next t) :
    OnlyWrites [.stack, .pc, .run] s t := by
  rcases execCall_cases nnn s with ⟨-, e⟩ | ⟨-, u, e, -, -, -, hu⟩
  · exact (raise_onlyWrites (e.symm.trans h)).mono (by decide)
  · cases e.symm.trans h
    exact hu.mono (by decide)

theorem execDrw_onlyWrites {x y n : Nibble} {s t : State} (h : execDrw x y n s = .next t) :
    OnlyWrites [.v, .fb, .pc, .run] s t :=
  (checked_onlyWrites h ((setFb_onlyWrites s _).trans (writeV_advance_onlyWrites _ _ _))).mono (by decide)

theorem execLdVxK_onlyWrites {x : Nibble} {s t : State} (h : execLdVxK x s = .next t) :
    OnlyWrites [.v, .pc, .wait, .draws] s t := by
  rcases execLdVxK_cases x s with ⟨-, u, e, hu⟩ | ⟨-, k, u, e, hu⟩
  · cases e.symm.trans h
    exact hu.mono (by decide)
  · cases e.symm.trans h
    exact (hu.trans (writeV_advance_onlyWrites u x k)).mono (by decide)

theorem execLdVxDt_cases (x : Nibble) (s : State) :
    (s.cfg.timers = .absent ∧ execLdVxDt x s = .next s.advance) ∨
    (s.cfg.timers = .present ∧ execLdVxDt x s = .next (s.writeV x s.dt).advance) := by
  unfold execLdVxDt
  cases s.cfg.timers with
  | absent => exact .inl ⟨rfl, rfl⟩
  | present => exact .inr ⟨rfl, rfl⟩

theorem execLdDtVx_cases (x : Nibble) (s : State) :
    (s.cfg.timers = .absent ∧ execLdDtVx x s = .next s.advance) ∨
    (s.cfg.timers = .present ∧ execLdDtVx x s = .next (s.setDt (s.readV x)).advance) := by
  unfold execLdDtVx
  cases s.cfg.timers with
  | absent => exact .inl ⟨rfl, rfl⟩
  | present => exact .inr ⟨rfl, rfl⟩

theorem execLdStVx_cases (x : Nibble) (s : State) :
    (s.cfg.timers = .absent ∧ execLdStVx x s = .next s.advance) ∨
    (s.cfg.timers = .present ∧ execLdStVx x s = .next (s.setSt (s.readV x)).advance) := by
  unfold execLdStVx
  cases s.cfg.timers with
  | absent => exact .inl ⟨rfl, rfl⟩
  | present => exact .inr ⟨rfl, rfl⟩

theorem execLdVxDt_onlyWrites {x : Nibble} {s t : State} (h : execLdVxDt x s = .next t) :
    OnlyWrites [.v, .pc] s t := by
  rcases execLdVxDt_cases x s with ⟨-, e⟩ | ⟨-, e⟩
  · cases e.symm.trans h
    exact (advance_onlyWrites s).mono (by decide)
  · cases e.symm.trans h
    exact writeV_advance_onlyWrites s x _

theorem execLdDtVx_onlyWrites {x : Nibble} {s t : State} (h : execLdDtVx x s = .next t) :
    OnlyWrites [.timers, .pc] s t := by
  rcases execLdDtVx_cases x s with ⟨-, e⟩ | ⟨-, e⟩
  · cases e.symm.trans h
    exact (advance_onlyWrites s).mono (by decide)
  · cases e.symm.trans h
    exact (setDt_onlyWrites s _).trans (advance_onlyWrites _)

theorem execLdStVx_onlyWrites {x : Nibble} {s t : State} (h : execLdStVx x s = .next t) :
    OnlyWrites [.timers, .pc] s t := by
  rcases execLdStVx_cases x s with ⟨-, e⟩ | ⟨-, e⟩
  · cases e.symm.trans h
    exact (advance_onlyWrites s).mono (by decide)
  · cases e.symm.trans h
    exact (setSt_onlyWrites s _).trans (advance_onlyWrites _)

/-- Every instruction writes at most the parts it may. -/
theorem exec_onlyWrites {i : Instr} {s t : State} (h : exec i s = .next t) : OnlyWrites (mayChange i) s t := by
  cases i
  case ret => exact execRet_onlyWrites h
  case call nnn => exact execCall_onlyWrites h
  case drw x y n => exact execDrw_onlyWrites h
  case ldVxK x => exact execLdVxK_onlyWrites h
  case ldVxDt x => exact execLdVxDt_onlyWrites h
  case ldDtVx x => exact execLdDtVx_onlyWrites h
  case ldStVx x => exact execLdStVx_onlyWrites h
  case ldB | ldMemVx => exact checked_onlyWrites h (storeBytes_advance_onlyWrites s _ _)
  case ldVxMem x => exact checked_onlyWrites h ((loadRegs_onlyWrites s x).trans (advance_onlyWrites _))
  all_goals cases h
  case cls => exact (setFb_onlyWrites s _).trans (advance_onlyWrites _)
  case jp nnn => exact setPc_onlyWrites s _
  case seImm | sneImm | seReg | sneReg | skp | sknp => exact skipIf_onlyWrites s _
  case ldImm | addImm | ldReg | orReg | andReg | xorReg => exact writeV_advance_onlyWrites s _ _
  case addReg | sub | shr | subn | shl => exact aluFlag_onlyWrites s _ _ _
  case ldI | addI | ldF => exact writeI_advance_onlyWrites s _
  case rnd x nn => exact rnd_onlyWrites s x _

/-- Settles O23: an instruction is a sequence of the state's operations, and writes what they write. -/
theorem everyInstructionKeepsItsFrame : Obligations.EveryInstructionKeepsItsFrame :=
  fun _ _ _ h => (exec_onlyWrites h).onlyChanges

end Sys2Proof.Machine
end

section
/-! SUPPORT. Which registers an instruction writes and how it moves pc, and the proofs of O24 and O26. -/

namespace Sys2Proof.Machine

/-! ### Registers -/

theorem readV_of_onlyWrites {parts : List Part} {s t : State} (h : OnlyWrites parts s t) (hv : .v ∉ parts)
    (r : Nibble) : t.readV r = s.readV r :=
  readV_congr (h .v hv) r

/-- A checked access leaves a register as it was when what it is to do does. -/
theorem readV_of_checked {s t u : State} {n : Nat} {ins : Instr} {r : Nibble} (h : s.checked n ins u = .next t)
    (hu : u.readV r = s.readV r) : t.readV r = s.readV r := by
  rcases checked_cases s n ins u with ⟨-, e⟩ | ⟨-, -, e⟩
  · cases e.symm.trans h
    exact hu
  · exact readV_of_onlyWrites (raise_onlyWrites (e.symm.trans h)) (by decide) r

theorem readV_writeResultAndFlag_ne (s : State) {x r : Nibble} (res flag : Byte) (h : ¬ (r = x ∨ r = vf)) :
    (s.writeResultAndFlag x res flag).readV r = s.readV r := by
  rw [readV_writeResultAndFlag, if_neg fun hr => h (.inl hr.2), if_neg fun hr => h (.inr hr),
    if_neg fun hr => h (.inl hr)]

theorem readV_execLdVxK {x r : Nibble} {s t : State} (h : execLdVxK x s = .next t) (hr : r ≠ x) :
    t.readV r = s.readV r := by
  rcases execLdVxK_cases x s with ⟨-, u, e, hu⟩ | ⟨-, k, u, e, hu⟩
  · cases e.symm.trans h
    exact readV_of_onlyWrites hu (by decide) r
  · cases e.symm.trans h
    exact (readV_writeV_ne u k hr).trans (readV_of_onlyWrites hu (by decide) r)

theorem readV_execLdVxDt {x r : Nibble} {s t : State} (h : execLdVxDt x s = .next t) (hr : r ≠ x) :
    t.readV r = s.readV r := by
  rcases execLdVxDt_cases x s with ⟨-, e⟩ | ⟨-, e⟩
  · cases e.symm.trans h
    rfl
  · cases e.symm.trans h
    exact readV_writeV_ne s s.dt hr

/-- Settles O24: an instruction without a destination register has no register in its frame, and the others write
theirs through `writeV`, `writeResultAndFlag` or `loadRegs`. -/
theorem registersAreWrittenAsListed : Obligations.RegistersAreWrittenAsListed := by
  intro i s t r h hr
  cases i
  case drw x y n => exact readV_of_checked h (readV_writeV_ne (s.setFb _) _ hr)
  case ldVxMem x =>
    have hu : (s.loadRegs x).advance.readV r = s.readV r := by
      rw [readV_congr (advance_v _), readV_loadRegs]
      exact if_neg hr
    exact readV_of_checked h hu
  case ldVxK x => exact readV_execLdVxK h hr
  case ldVxDt x => exact readV_execLdVxDt h hr
  case ldImm | addImm | ldReg | orReg | andReg | xorReg => cases h; exact readV_writeV_ne s _ hr
  case rnd => cases h; exact readV_writeV_ne s.nextDraw _ hr
  case addReg | sub | shr | subn | shl => cases h; exact readV_writeResultAndFlag_ne s _ _ hr
  all_goals exact readV_of_onlyWrites (exec_onlyWrites h) (by simp [mayChange]) r

/-! ### pc -/

/-- KeyPressed(v) of R191 is that some hex key has the number v and is pressed. -/
theorem keyPressed_iff (s : State) (b : Byte) : s.keyPressed b = true ↔ KeyDown s b := by
  simp only [State.keyPressed, Bool.and_eq_true, decide_eq_true_eq, isPressed_eq, Option.isSome_iff_ne_none]
  constructor
  · rintro ⟨hb, hk⟩
    exact ⟨b.setWidth 4, by rw [BitVec.toNat_setWidth]; omega, hk⟩
  · rintro ⟨k, hb, hk⟩
    have hlt := k.isLt
    have hkb : b.setWidth 4 = k := BitVec.eq_of_toNat_eq (by rw [BitVec.toNat_setWidth]; omega)
    exact ⟨by omega, by rwa [hkb]⟩

theorem run_of_onlyWrites {parts : List Part} {s t : State} (h : OnlyWrites parts s t) (hr : .run ∉ parts) :
    t.run = s.run :=
  (samePart_of_part_eq (h .run hr)).1

theorem pc_of_onlyWrites {parts : List Part} {s t : State} (h : OnlyWrites parts s t) (hp : .pc ∉ parts) :
    t.pc = s.pc :=
  h .pc hp

theorem zext16_toNat (nnn : Addr12) : (zext16 nnn).toNat = nnn.toNat := by
  rw [zext16, BitVec.toNat_setWidth, Nat.mod_eq_of_lt (nnn.isLt.trans (by decide))]

/-- A checked access stops the run with pc as it is, or goes on to the next instruction. -/
theorem checked_movesPc {s u : State} {n : Nat} {ins : Instr} (hr : s.run = .running) (hu : u.run = s.run)
    (hp : u.pc = s.pc + 2) :
    ∃ t, s.checked n ins u = .next t ∧
      ((t.run = .stoppedFault ∧ t.pc = s.pc) ∨ (t.run = .running ∧ t.pc = s.pc + 2)) := by
  rcases checked_cases s n ins u with ⟨-, e⟩ | ⟨-, -, e⟩
  · exact ⟨u, e, .inr ⟨hu.trans hr, hp⟩⟩
  · exact ⟨_, e, .inl ⟨rfl, rfl⟩⟩

/-- Settles O26, instruction by instruction: by the skip's condition, by whether the stack and the checked addresses
admit the instruction, and by whether Fx0A has a key. -/
theorem pcMovesAsListed : Obligations.PcMovesAsListed := by
  intro i s hr
  cases i
  case jp nnn => exact ⟨_, rfl, .inr ⟨hr, zext16_toNat nnn⟩⟩
  case ret =>
    rcases execRet_cases s with ⟨-, e⟩ | ⟨-, t, e, hpc, -, -, ht⟩
    · exact ⟨_, e, .inl ⟨rfl, rfl⟩⟩
    · exact ⟨t, e, .inr ⟨(run_of_onlyWrites ht (by decide)).trans hr, hpc⟩⟩
  case call nnn =>
    rcases execCall_cases nnn s with ⟨-, e⟩ | ⟨-, t, e, hpc, -, -, ht⟩
    · exact ⟨_, e, .inl ⟨rfl, rfl⟩⟩
    · exact ⟨t, e, .inr ⟨(run_of_onlyWrites ht (by decide)).trans hr, hpc ▸ zext16_toNat nnn⟩⟩
  case seImm | sneImm | seReg | sneReg => exact ⟨_, rfl, .inr ⟨hr, by simp⟩⟩
  case skp x => exact ⟨_, rfl, .inr ⟨hr, by simp [← keyPressed_iff], by simp [← keyPressed_iff]⟩⟩
  case sknp x => exact ⟨_, rfl, .inr ⟨hr, by simp [← keyPressed_iff], by simp [← keyPressed_iff]⟩⟩
  case drw | ldB | ldMemVx | ldVxMem => exact checked_movesPc hr (by simp) (by simp)
  case addReg | sub | shr | subn | shl => exact ⟨_, rfl, .inr ⟨by simp [hr], by simp⟩⟩
  case ldVxK x =>
    rcases execLdVxK_cases x s with ⟨hn, t, e, ht⟩ | ⟨hn, k, t, e, ht⟩
    · exact ⟨t, e, .inr ⟨(run_of_onlyWrites ht (by decide)).trans hr, fun _ => pc_of_onlyWrites ht (by decide),
        fun h => absurd hn h⟩⟩
    · have hpc : t.pc = s.pc := pc_of_onlyWrites ht (by decide)
      exact ⟨_, e, .inr ⟨(run_of_onlyWrites ht (by decide)).trans hr, fun h => absurd h hn,
        fun _ => congrArg (· + 2) hpc⟩⟩
  case ldVxDt x => rcases execLdVxDt_cases x s with ⟨-, e⟩ | ⟨-, e⟩ <;> exact ⟨_, e, .inr ⟨hr, rfl⟩⟩
  case ldDtVx x => rcases execLdDtVx_cases x s with ⟨-, e⟩ | ⟨-, e⟩ <;> exact ⟨_, e, .inr ⟨hr, rfl⟩⟩
  case ldStVx x => rcases execLdStVx_cases x s with ⟨-, e⟩ | ⟨-, e⟩ <;> exact ⟨_, e, .inr ⟨hr, rfl⟩⟩
  all_goals exact ⟨_, rfl, .inr ⟨hr, rfl⟩⟩

end Sys2Proof.Machine
end

section
/-! SUPPORT. What one transition can do, by the event it takes, and the proof of O21. -/

namespace Sys2Proof.Machine

/-- Every transition: a stopped machine stays, and a running one takes its next event off the events to come and
handles it; an instruction tick is the step of R94, the presses after it, the exit check and, in the reference
schedule, the count of the tick (60_exceptions.md R220 to R228). -/
theorem step_cases {s t : State} (h : step s = .next t) :
    (s.run ≠ .running ∧ t = s) ∨
    (s.run = .running ∧
      ((∃ ks w, s.nextEvent = .instrTick ks ∧ (s.setInputs s.inputs.tail).runInstr = .next w ∧
          t = if s.inputs = [] then (w.pressBetween ks).exitCheck.countTick else (w.pressBetween ks).exitCheck) ∨
       (s.nextEvent = .frameTick ∧ t = (s.setInputs s.inputs.tail).frameTick) ∨
       ∃ k, s.nextEvent = .registerPress k ∧ t = (s.setInputs s.inputs.tail).registerPress k)) := by
  change s.transition = .next t at h
  by_cases hr : s.run = .running
  · refine .inr ⟨hr, ?_⟩
    cases hn : s.nextEvent with
    | instrTick ks =>
      obtain ⟨w, hw, ht, -⟩ := instrTick_cases (s.setInputs s.inputs.tail) ks
      rw [transition_instrTick s ks hr hn, ht] at h
      cases h
      exact .inl ⟨ks, w, rfl, hw, rfl⟩
    | frameTick =>
      rw [transition_frameTick s hr hn] at h
      cases h
      exact .inr (.inl ⟨rfl, rfl⟩)
    | registerPress k =>
      rw [transition_registerPress s k hr hn] at h
      cases h
      exact .inr (.inr ⟨k, rfl, rfl⟩)
  · rw [transition_stopped s hr] at h
    cases h
    exact .inl ⟨hr, rfl⟩

/-- The step of R94 is a fatal condition of the fetch or the decode, or the decoded instruction at an address below
0xFFF (R81, R211, R213). -/
theorem runInstr_eq_next {s w : State} (h : s.runInstr = .next w) :
    (∃ kind b0 b1 addr, w = s.stopFault (s.faultRecord kind b0 b1 addr) ∧
      (addr.isSome = true ↔ kind = .addressError)) ∨
    (s.pc.toNat < 0xFFF ∧ ∃ i, exec i s = .next w) := by
  unfold State.runInstr at h
  rcases fetch_cases s with ⟨hpc, e⟩ | ⟨-, e⟩ | ⟨-, e⟩
  · simp only [e, State.runWord] at h
    split at h
    · cases h
      exact .inl ⟨_, _, _, _, rfl, by simp⟩
    · exact .inr ⟨hpc, _, h⟩
  · simp only [e] at h
    cases h
    exact .inl ⟨_, _, _, _, rfl, by simp⟩
  · simp only [e] at h
    cases h
    exact .inl ⟨_, _, _, _, rfl, by simp⟩

/-! ### The timers under TIMERS = Absent -/

/-- With TIMERS = Absent the two instructions that write a timer only go on, and no other instruction may write one
(R201, R202). -/
theorem exec_timers_of_absent {i : Instr} {s t : State} (ha : s.cfg.timers = .absent) (h : exec i s = .next t) :
    t.dt = s.dt ∧ t.st = s.st := by
  have hnp : s.cfg.timers ≠ .present := by rw [ha]; decide
  cases i
  case ldDtVx x =>
    rcases execLdDtVx_cases x s with ⟨-, e⟩ | ⟨hp, -⟩
    · cases e.symm.trans h
      exact ⟨rfl, rfl⟩
    · exact absurd hp hnp
  case ldStVx x =>
    rcases execLdStVx_cases x s with ⟨-, e⟩ | ⟨hp, -⟩
    · cases e.symm.trans h
      exact ⟨rfl, rfl⟩
    · exact absurd hp hnp
  all_goals exact samePart_of_part_eq (exec_onlyWrites h .timers (by simp [mayChange]))

theorem runInstr_timers_of_absent {s w : State} (ha : s.cfg.timers = .absent) (h : s.runInstr = .next w) :
    w.dt = s.dt ∧ w.st = s.st := by
  rcases runInstr_eq_next h with ⟨_, _, _, _, rfl, -⟩ | ⟨-, i, hx⟩
  · exact ⟨rfl, rfl⟩
  · exact exec_timers_of_absent ha hx

theorem frameTick_timers_of_absent {s : State} (ha : s.cfg.timers = .absent) :
    s.frameTick.dt = s.dt ∧ s.frameTick.st = s.st := by
  have hf : s.frameTick = s.flush.keyTick := by
    simp only [State.frameTick, State.timersTick, keyTick_cfg, flush_cfg, ha]
  rw [hf]
  exact ⟨rfl, rfl⟩

/-- Settles O21: only the instruction itself and the frame tick could reach DT and ST, and with TIMERS = Absent neither
does. -/
theorem absentTimersNeverChange : Obligations.AbsentTimersNeverChange := by
  intro s t ha h
  rcases step_cases h with ⟨-, rfl⟩ | ⟨-, ⟨ks, w, -, hw, rfl⟩ | ⟨-, rfl⟩ | ⟨k, -, rfl⟩⟩
  · exact ⟨rfl, rfl⟩
  · have hwt : w.dt = s.dt ∧ w.st = s.st := runInstr_timers_of_absent (s := s.setInputs s.inputs.tail) ha hw
    split <;> simpa using hwt
  · exact frameTick_timers_of_absent ha
  · simp

end Sys2Proof.Machine
end

section
/-! SUPPORT. Every operation of a transition keeps the invariant, and the proof of O4. -/

namespace Sys2Proof.Machine

/-! ### Key counters -/

theorem counterLegal_keyDuration : CounterLegal (some keyDuration) := by
  rintro n ⟨⟩
  exact ⟨Nat.le_refl 1, Nat.le_refl _⟩

theorem CounterLegal.ageCounter {c : Option Nat} (h : CounterLegal c) : CounterLegal (ageCounter c) := by
  cases c with
  | none => nofun
  | some n =>
    obtain ⟨-, hn⟩ := h n rfl
    rw [Machine.ageCounter]
    split
    · nofun
    · rintro m ⟨⟩
      omega

/-! ### The state around the instructions -/

/-- The fields the invariant reads beside the counters and the run are the same. -/
structure SameCore (s t : State) : Prop where
  mem : t.mem = s.mem
  pc : t.pc = s.pc
  sp : t.sp = s.sp
  stack : t.stack = s.stack
  record : t.record = s.record

theorem LegalState.of_sameCore {s t : State} (h : LegalState s) (hc : SameCore s t)
    (hk : ∀ k, CounterLegal (t.counter k)) (hr : t.run = .stoppedFault ↔ s.run = .stoppedFault) : LegalState t where
  mem_canonical := hc.mem ▸ h.mem_canonical
  pc_bound := hc.pc ▸ h.pc_bound
  stack_bound := by rw [hc.sp, hc.stack]; exact h.stack_bound
  keys_legal := hk
  record_iff := by rw [hc.record, hr]; exact h.record_iff
  record_legal := by rw [hc.record, hc.pc]; exact h.record_legal

/-- While Running there is no fault record (R47). -/
theorem LegalState.record_eq_none {s : State} (h : LegalState s) (hr : s.run = .running) : s.record = none := by
  cases hrec : s.record with
  | none => rfl
  | some r => exact absurd (h.record_iff.mp (by rw [hrec]; rfl)) (by rw [hr]; decide)

theorem LegalState.setInputs {s : State} (h : LegalState s) (es : List Event) : LegalState (s.setInputs es) :=
  h.of_sameCore ⟨rfl, rfl, rfl, rfl, rfl⟩ h.keys_legal .rfl

theorem LegalState.registerPress {s : State} (h : LegalState s) (k : Key) : LegalState (s.registerPress k) := by
  refine h.of_sameCore (by constructor <;> simp) (fun j => ?_) (by simp)
  rw [counter_registerPress]
  split
  · exact counterLegal_keyDuration
  · exact h.keys_legal j

theorem LegalState.pressBetween {s : State} (h : LegalState s) (ks : List Key) : LegalState (s.pressBetween ks) := by
  unfold State.pressBetween
  split
  · exact List.foldlRecOn ks State.registerPress h fun _ hs k _ => hs.registerPress k
  · exact h

theorem LegalState.exitCheck {s : State} (h : LegalState s) : LegalState s.exitCheck := by
  refine h.of_sameCore (by constructor <;> simp) (fun k => ?_) ?_
  · rw [counter_congr (exitCheck_hexKeys s) (exitCheck_exitKey s)]
    exact h.keys_legal k
  · unfold State.exitCheck
    split
    · next hr => simp [hr.1]
    · exact .rfl

theorem LegalState.countTick {s : State} (h : LegalState s) : LegalState s.countTick := by
  refine h.of_sameCore (by constructor <;> simp) (fun k => ?_) (by simp)
  rw [counter_congr (countTick_hexKeys s) (countTick_exitKey s)]
  exact h.keys_legal k

theorem LegalState.frameTick {s : State} (h : LegalState s) : LegalState s.frameTick := by
  refine h.of_sameCore (by constructor <;> simp) (fun k => ?_) (by simp)
  have hk : s.frameTick.counter k = ageCounter (s.counter k) := by
    rw [State.frameTick, counter_congr (timersTick_hexKeys _) (timersTick_exitKey _), counter_keyTick]
    rfl
  rw [hk]
  exact (h.keys_legal k).ageCounter

theorem LegalState.stopFault {s : State} (h : LegalState s) {kind : FaultKind} {b0 b1 : Option Byte}
    {addr : Option Nat} (ha : addr.isSome = true ↔ kind = .addressError) :
    LegalState (s.stopFault (s.faultRecord kind b0 b1 addr)) where
  mem_canonical := h.mem_canonical
  pc_bound := h.pc_bound
  stack_bound := h.stack_bound
  keys_legal := h.keys_legal
  record_iff := by simp
  record_legal := by
    rintro r ⟨⟩
    exact ⟨rfl, rfl, by simpa [State.faultRecord] using ha⟩

/-! ### The instructions -/

/-- A checked store of as many bytes as were checked keeps the canonical form. -/
theorem wf_of_checked_store {s t : State} {ins : Instr} {bs : List Byte} (hm : s.mem.wf = true)
    (h : s.checked bs.length ins (s.storeBytes (s.indexAddr 0) bs).advance = .next t) : t.mem.wf = true := by
  rcases checked_cases s bs.length ins (s.storeBytes (s.indexAddr 0) bs).advance with ⟨hb, e⟩ | ⟨-, -, e⟩
  · cases e.symm.trans h
    exact wf_writeBytes hm (hb.imp_left List.eq_nil_of_length_eq_zero)
  · cases e.symm.trans h
    exact hm

theorem exec_mem_wf {i : Instr} {s t : State} (hm : s.mem.wf = true) (h : exec i s = .next t) : t.mem.wf = true := by
  cases i
  case ldB x => exact wf_of_checked_store (bs := bcdDigits (s.readV x)) hm h
  case ldMemVx x =>
    rw [exec, execLdMemVx, ← regsUpTo_length s x] at h
    exact wf_of_checked_store hm h
  all_goals
    have hmem : t.mem = s.mem := exec_onlyWrites h .mem (by simp [mayChange])
    rw [hmem]
    exact hm

/-- CALL adds the entry pc + 2, which is at most 0x1000 when the instruction could be fetched; RET takes one away
(R102). -/
theorem exec_stack_bound {i : Instr} {s t : State} (hl : LegalState s) (hpc : s.pc.toNat < 0xFFF)
    (h : exec i s = .next t) : ∀ k : Fin 16, k.val < t.sp.val → (t.stack[k]).toNat ≤ 0x1000 := by
  cases i
  case ret =>
    rcases execRet_cases s with ⟨-, e⟩ | ⟨-, u, e, -, hsp, hst, -⟩ <;> cases e.symm.trans h
    · exact hl.stack_bound
    · rw [hst, hsp]
      exact fun k hk => hl.stack_bound k (by omega)
  case call nnn =>
    rcases execCall_cases nnn s with ⟨-, e⟩ | ⟨hlt, u, e, -, hsp, hst, -⟩ <;> cases e.symm.trans h
    · exact hl.stack_bound
    · rw [hst, hsp]
      intro k hk
      change ((s.stack.set s.sp.val (s.pc + 2) hlt)[k.val]).toNat ≤ 0x1000
      rw [Vector.getElem_set]
      split
      · bv_omega
      · exact hl.stack_bound k (by omega)
  all_goals
    obtain ⟨hsp, hst⟩ := samePart_of_part_eq (exec_onlyWrites h .stack (by simp [mayChange]))
    rw [hsp, hst]
    exact hl.stack_bound

/-- An instruction below 0xFFF leaves pc at most 0x1002: a jump is below 0x1000, a popped entry at most 0x1000, and a
skip adds at most 4 (R31). -/
theorem exec_pc_bound {i : Instr} {s t : State} (hl : LegalState s) (hr : s.run = .running)
    (hpc : s.pc.toNat < 0xFFF) (h : exec i s = .next t) : t.pc.toNat ≤ 0x1002 := by
  obtain ⟨u, e, hu⟩ := pcMovesAsListed i s hr
  cases e.symm.trans h
  have h0 := hl.pc_bound
  have h2 : (s.pc + 2).toNat ≤ 0x1002 := by bv_omega
  have h4 : (s.pc + 4).toNat ≤ 0x1002 := by bv_omega
  rcases hu with ⟨-, hp⟩ | ⟨hrun, hp⟩
  · rwa [hp]
  cases i
  case jp nnn | call nnn =>
    have := nnn.isLt
    omega
  case ret =>
    rcases execRet_cases s with ⟨-, er⟩ | ⟨hsp, -⟩
    · cases er.symm.trans h
      cases hrun
    · have := hl.stack_bound ⟨s.sp.val - 1, by omega⟩ (by change s.sp.val - 1 < _; omega)
      rw [hp]
      exact this.trans (by decide)
  case seImm | sneImm | seReg | sneReg => rw [hp]; split <;> assumption
  case skp x | sknp x =>
    by_cases hk : KeyDown s (s.readV x)
    · rwa [hp.1 hk]
    · rwa [hp.2 hk]
  case ldVxK x =>
    by_cases hk : NoKeyAvailable s
    · rwa [hp.1 hk]
    · rwa [hp.2 hk]
  all_goals exact hp ▸ h2

/-- Raising a fatal condition and completing both keep the invariant. -/
theorem exec_legal {i : Instr} {s t : State} (hl : LegalState s) (hr : s.run = .running)
    (hpc : s.pc.toNat < 0xFFF) (h : exec i s = .next t) : LegalState t := by
  rcases exec_cases i s with ⟨kind, addr, e, ha⟩ | ⟨u, e, hc⟩
  · cases e.symm.trans h
    exact hl.stopFault ha
  · cases e.symm.trans h
    exact {
      mem_canonical := exec_mem_wf hl.mem_canonical h
      pc_bound := exec_pc_bound hl hr hpc h
      stack_bound := exec_stack_bound hl hpc h
      keys_legal := fun k => counter_congr hc.hexKeys hc.exitKey k ▸ hl.keys_legal k
      record_iff := by rw [hc.record, hc.run]; exact hl.record_iff
      record_legal := by rw [hc.record, hl.record_eq_none hr]; nofun }

theorem runInstr_legal {s w : State} (hl : LegalState s) (hr : s.run = .running) (h : s.runInstr = .next w) :
    LegalState w := by
  rcases runInstr_eq_next h with ⟨_, _, _, _, rfl, ha⟩ | ⟨hpc, i, hx⟩
  · exact hl.stopFault ha
  · exact exec_legal hl hr hpc hx

/-- Settles O4: whichever event the transition takes, each operation it makes keeps the invariant. -/
theorem everyStepKeepsTheInvariant : Obligations.EveryStepKeepsTheInvariant := by
  intro s t hl h
  have hl' := hl.setInputs s.inputs.tail
  rcases step_cases h with ⟨-, rfl⟩ | ⟨hr, ⟨ks, w, -, hw, rfl⟩ | ⟨-, rfl⟩ | ⟨k, -, rfl⟩⟩
  · exact hl
  · have hw' := ((runInstr_legal hl' hr hw).pressBetween ks).exitCheck
    split
    · exact hw'.countTick
    · exact hw'
  · exact hl'.frameTick
  · exact hl'.registerPress k

end Sys2Proof.Machine
end

section
/-! SUPPORT. The reset state as a launch, and the proofs of O1 and O3. -/

namespace Sys2Proof.Machine

/-- The reset state is the launch state of the empty image with every parameter at its default (R241). -/
theorem launchState_default : launchState defaultParams resetV resetI initMem defaultFont [] = State.reset := by
  have h := boot_of_image_fits defaultParams resetV resetI initMem defaultFont (image := []) (Nat.zero_le _)
  rw [boot_default] at h
  exact (Host.Outcome.next.inj h).symm

theorem counter_reset (k : Key) : State.reset.counter k = none := by
  rw [← launchState_default]
  exact counter_launchState _ _ _ _ _ [] k

theorem pixel_reset (p : Fin 2048) : pixel State.reset.fb p = false := by
  simp [pixel, State.reset]

/-- Settles O1: the counters and pixels are read one by one, the other values are the reset state's fields. -/
theorem resetLeavesTheStatedValues : Obligations.ResetLeavesTheStatedValues :=
  ⟨rfl, rfl, rfl, rfl, rfl, counter_reset, pixel_reset, rfl, rfl, rfl⟩

/-- Settles O3: the launch of the empty image meets the invariant. -/
theorem resetSatisfiesTheInvariant : Obligations.ResetSatisfiesTheInvariant := by
  unfold Obligations.ResetSatisfiesTheInvariant
  rw [← launchState_default]
  exact launchState_legal _ _ _ _ _ (Nat.zero_le _)

end Sys2Proof.Machine
end

section
/-! SUPPORT. The regions of the address map, and registers stored by LD [I], Vx as a later fetch reads them, with the
proofs of O47 and O48. -/

namespace Sys2Proof.Machine

/-! ### The address decoder -/

/-- Below MEM_SIZE the decoder never refuses, and the region's bounds are FONT's end and PROGRAM_BASE (R64). -/
theorem decodeAddr_of_lt {a : Nat} (h : a < 0x1000) :
    decodeAddr a = if a < 0x050 then some .font else if a < 0x200 then some .low else some .program :=
  if_neg (Nat.not_le_of_lt h)

/-- Settles O48: an address is out of range, or one comparison with each region's bound selects its region. -/
theorem addressDecoderRegions : Obligations.AddressDecoderRegions := by
  intro a
  refine ⟨(decodeAddr_eq_none a).mpr, fun h => ?font, fun h h' => ?low, fun h h' => ?program⟩
  case font => rw [decodeAddr_of_lt (by omega), if_pos (by omega)]
  case low => rw [decodeAddr_of_lt (by omega), if_neg (by omega), if_pos (by omega)]
  case program => rw [decodeAddr_of_lt (by omega), if_neg (by omega), if_neg (by omega)]

/-! ### Accesses inside memory -/

/-- A checked access whose last address is in memory goes on (R69). -/
theorem checked_of_in_range {s : State} {n : Nat} (h : s.i.toNat + n ≤ 0x1000) (ins : Instr) (t : State) :
    s.checked n ins t = .next t := by
  rcases checked_cases s n ins t with ⟨-, e⟩ | ⟨-, hbad, -⟩
  · exact e
  · omega

/-- Below the last address the fetch reads the bytes at pc and pc + 1 (R81). -/
theorem fetch_of_pc_lt {s : State} (h : s.pc.toNat < 0xFFF) :
    s.fetch = .ok (s.readByte s.pc.toNat, s.readByte (s.pc.toNat + 1)) := by
  rcases fetch_cases s with ⟨-, e⟩ | ⟨hpc, -⟩ | ⟨hpc, -⟩
  · exact e
  · omega
  · omega

/-! ### Stored registers -/

/-- LD [I], Vx with I + x in memory stores V0 to V[x] at I and goes on at the next instruction (R154). -/
theorem exec_ldMemVx_of_in_range {x : Nibble} {s : State} (h : s.i.toNat + x.toNat < 0x1000) :
    exec (.ldMemVx x) s = .next (s.storeBytes s.i.toNat (s.regsUpTo x)).advance :=
  checked_of_in_range h _ _

/-- The byte k places after the start of the stored registers is V[k]. -/
theorem readByte_storeBytes_regsUpTo (s : State) (a : Nat) {x : Nibble} {k : Nat} (h : k ≤ x.toNat) :
    (s.storeBytes a (s.regsUpTo x)).readByte (a + k) = s.readV (BitVec.ofNat 4 k) := by
  have hk : k < (s.regsUpTo x).length := by rw [regsUpTo_length]; omega
  rw [readByte_storeBytes_inside s a _ k hk, regsUpTo_getElem]

/-- Settles O47: a byte read looks only at the memory, so the fetch at I + k reads V[k] and V[k + 1] as stored. -/
theorem storedBytesAreFetched : Obligations.StoredBytesAreFetched := by
  intro x s hx
  refine ⟨_, exec_ldMemVx_of_in_range hx, fun u k hmem hk hpc => ?_⟩
  have stored : ∀ j ≤ x.toNat, u.readByte (s.i.toNat + j) = s.readV (BitVec.ofNat 4 j) := fun j hj =>
    (readByte_congr hmem _).trans (readByte_storeBytes_regsUpTo s s.i.toNat hj)
  rw [fetch_of_pc_lt (by omega), hpc, Nat.add_assoc, stored k (by omega), stored (k + 1) hk]

end Sys2Proof.Machine
end

section
/-! SUPPORT. The decoder and the encoder undo each other, which words the decoder rejects, and the one row that selects
a legal word, with the proofs of O5 to O9. -/

namespace Sys2Proof

/-! ### Decode of encode -/

/-- Decoding reads the fields back that encoding put together: the op selects the family, and in families 8, E and F
the low bits select the function (30_encoding.md R84 to R89). -/
theorem decode_encode (i : Instr) : decode (encode i) = .ok i := by
  cases i
  case cls | ret => rfl
  case ldReg | orReg | andReg | xorReg | addReg | sub | shr | subn | shl => simp [decode, encode, decodeAlu]
  case skp | sknp => simp [decode, encode, decodeKey]
  case ldVxDt | ldVxK | ldDtVx | ldStVx | addI | ldF | ldB | ldMemVx | ldVxMem => simp [decode, encode, decodeMisc]
  all_goals simp [decode, encode]

theorem decodeBytes_encodeBytes_append (i : Instr) (rest : List Byte) :
    decodeBytes (encodeBytes i ++ rest) = .ok (i, rest) := by
  simp [encodeBytes, decodeBytes, decode_encode]

/-- Settles O5: every instruction's word decodes to it, and the first two bytes join to its word. -/
theorem decodeOfEncodeIsTheInstruction : Obligations.DecodeOfEncodeIsTheInstruction :=
  fun i _ => ⟨decode_encode i, decodeBytes_encodeBytes_append i⟩

/-- Settles O9: fifteen of the words are the encodings of their instructions; op B has none. -/
theorem sampleWordsDecode : Obligations.SampleWordsDecode :=
  ⟨decode_encode .cls, decode_encode (.jp 0x234), decode_encode (.call 0x300), decode_encode (.seImm 3 0x2A),
    decode_encode (.sneImm 3 0x2A), decode_encode (.seReg 1 2), decode_encode (.ldImm 0xA 5),
    decode_encode (.addImm 0 0x20), decode_encode (.shl 0 1), decode_encode (.sneReg 1 2), decode_encode (.ldI 0x20A),
    decode_encode (.rnd 3 0x0F), decode_encode (.drw 1 2 5), decode_encode (.sknp 2), decode_encode (.ldF 0xA), rfl⟩

/-! ### Encode of decode -/

section
variable {w : Word} {op : Nibble}

theorem op_append_nnnOf (hop : opOf w = op) : op ++ nnnOf w = w := by
  rw [← hop, word_eq_nnn]

theorem op_append_xOf_nnOf (hop : opOf w = op) : op ++ xOf w ++ nnOf w = w := by
  rw [← hop, word_eq_xnn]

theorem op_append_xOf_yOf_nOf (hop : opOf w = op) : op ++ xOf w ++ yOf w ++ nOf w = w := by
  rw [← hop, word_eq_xyn]

end

theorem encode_of_decodeSystem {w : Word} {i : Instr} (h : decodeSystem w = .ok i) : encode i = w := by
  unfold decodeSystem at h
  split at h <;> cases h <;> exact (BitVec.eq_of_toNat_eq ‹_›).symm

theorem encode_of_decodeAlu {x y n : Nibble} {i : Instr} (h : decodeAlu x y n = .ok i) :
    encode i = 0x8#4 ++ x ++ y ++ n := by
  unfold decodeAlu at h
  split at h <;> cases h <;> exact congrArg (0x8#4 ++ x ++ y ++ ·) (BitVec.eq_of_toNat_eq (Eq.symm ‹_›))

theorem encode_of_decodeKey {x : Nibble} {nn : Byte} {i : Instr} (h : decodeKey x nn = .ok i) :
    encode i = 0xE#4 ++ x ++ nn := by
  unfold decodeKey at h
  split at h <;> cases h <;> exact congrArg (0xE#4 ++ x ++ ·) (BitVec.eq_of_toNat_eq (Eq.symm ‹_›))

theorem encode_of_decodeMisc {x : Nibble} {nn : Byte} {i : Instr} (h : decodeMisc x nn = .ok i) :
    encode i = 0xF#4 ++ x ++ nn := by
  unfold decodeMisc at h
  split at h <;> cases h <;> exact congrArg (0xF#4 ++ x ++ ·) (BitVec.eq_of_toNat_eq (Eq.symm ‹_›))

/-- The families in which every word is an instruction (30_encoding.md R84). -/
def fullFamilies : List Nibble := [0x1, 0x2, 0x3, 0x4, 0x6, 0x7, 0xA, 0xC, 0xD]

/-- What the decode of `w` is, by op (30_encoding.md R84): one case for each clause of R90, families 5 and 9 with n = 0,
and the families in which every word is an instruction. -/
inductive DecodedByOp (w : Word) : Except DecodeError Instr → Prop
  | system (hop : opOf w = 0x0#4) : DecodedByOp w (decodeSystem w)
  | alu (hop : opOf w = 0x8#4) : DecodedByOp w (decodeAlu (xOf w) (yOf w) (nOf w))
  | familyB (hop : opOf w = 0xB#4) : DecodedByOp w (.error .familyB)
  | key (hop : opOf w = 0xE#4) : DecodedByOp w (decodeKey (xOf w) (nnOf w))
  | misc (hop : opOf w = 0xF#4) : DecodedByOp w (decodeMisc (xOf w) (nnOf w))
  | skip {i : Instr} (hop : opOf w = 0x5#4 ∨ opOf w = 0x9#4) (hn : nOf w = 0#4) (hi : encode i = w) :
    DecodedByOp w (.ok i)
  | notSkip {e : DecodeError} (hop : opOf w = 0x5#4 ∨ opOf w = 0x9#4) (hn : nOf w ≠ 0#4) : DecodedByOp w (.error e)
  | full {i : Instr} (hop : opOf w ∈ fullFamilies) (hi : encode i = w) : DecodedByOp w (.ok i)

theorem decodedByOp_ite {w : Word} {i : Instr} {e : DecodeError} (hop : opOf w = 0x5#4 ∨ opOf w = 0x9#4)
    (hi : nOf w = 0#4 → encode i = w) : DecodedByOp w (if nOf w = 0#4 then .ok i else .error e) := by
  split
  · next hn => exact .skip hop hn (hi hn)
  · next hn => exact .notSkip hop hn

theorem decodedByOp_of_full {w : Word} {i : Instr} (op : Nibble) (h : (opOf w).toNat = op.toNat)
    (hop : op ∈ fullFamilies) (hi : opOf w = op → encode i = w) : DecodedByOp w (.ok i) := by
  have hw := BitVec.eq_of_toNat_eq h
  exact .full (hw ▸ hop) (hi hw)

theorem decodedByOp_decode (w : Word) : DecodedByOp w (decode w) := by
  unfold decode
  split
  · next h => exact .system (BitVec.eq_of_toNat_eq h)
  · next h => exact decodedByOp_of_full 0x1 h (by decide) op_append_nnnOf
  · next h => exact decodedByOp_of_full 0x2 h (by decide) op_append_nnnOf
  · next h => exact decodedByOp_of_full 0x3 h (by decide) op_append_xOf_nnOf
  · next h => exact decodedByOp_of_full 0x4 h (by decide) op_append_xOf_nnOf
  · next h =>
    have hop : opOf w = 0x5#4 := BitVec.eq_of_toNat_eq h
    exact decodedByOp_ite (.inl hop) fun hn => by rw [encode, ← hn, op_append_xOf_yOf_nOf hop]
  · next h => exact decodedByOp_of_full 0x6 h (by decide) op_append_xOf_nnOf
  · next h => exact decodedByOp_of_full 0x7 h (by decide) op_append_xOf_nnOf
  · next h => exact .alu (BitVec.eq_of_toNat_eq h)
  · next h =>
    have hop : opOf w = 0x9#4 := BitVec.eq_of_toNat_eq h
    exact decodedByOp_ite (.inr hop) fun hn => by rw [encode, ← hn, op_append_xOf_yOf_nOf hop]
  · next h => exact decodedByOp_of_full 0xA h (by decide) op_append_nnnOf
  · next h => exact .familyB (BitVec.eq_of_toNat_eq h)
  · next h => exact decodedByOp_of_full 0xC h (by decide) op_append_xOf_nnOf
  · next h => exact decodedByOp_of_full 0xD h (by decide) op_append_xOf_yOf_nOf
  · next h => exact .key (BitVec.eq_of_toNat_eq h)
  · simp only [imp_false] at *
    have hlt := (opOf w).isLt
    have h : (opOf w).toNat = 15 := by omega
    exact .misc (BitVec.eq_of_toNat_eq h)

/-- Settles O6, family by family: what is decoded holds every field of the word. -/
theorem encodeOfDecodeIsTheWord : Obligations.EncodeOfDecodeIsTheWord := by
  intro w i h
  have hw := decodedByOp_decode w
  generalize decode w = d at h hw
  cases hw with
  | system => exact encode_of_decodeSystem h
  | alu hop => rw [encode_of_decodeAlu h, op_append_xOf_yOf_nOf hop]
  | key hop => rw [encode_of_decodeKey h, op_append_xOf_nnOf hop]
  | misc hop => rw [encode_of_decodeMisc h, op_append_xOf_nnOf hop]
  | familyB | notSkip => cases h
  | skip _ _ hi | full _ hi => cases h; exact hi

/-! ### The illegal words -/

theorem decodeSystem_error_iff (w : Word) : (∃ e, decodeSystem w = .error e) ↔ w ≠ 0x00E0 ∧ w ≠ 0x00EE := by
  unfold decodeSystem
  split <;> simp_all [← BitVec.toNat_inj]

theorem decodeAlu_error_iff (x y n : Nibble) : (∃ e, decodeAlu x y n = .error e) ↔
    n ∈ [0x8#4, 0x9#4, 0xA#4, 0xB#4, 0xC#4, 0xD#4, 0xF#4] := by
  have hn := n.isLt
  unfold decodeAlu
  split
  case h_10 =>
    simp only [imp_false] at *
    simp [← BitVec.toNat_inj]
    omega
  all_goals simp [← BitVec.toNat_inj, *]

theorem decodeKey_error_iff (x : Nibble) (nn : Byte) : (∃ e, decodeKey x nn = .error e) ↔
    nn ∉ [0x9E#8, 0xA1#8] := by
  unfold decodeKey
  split <;> simp_all [← BitVec.toNat_inj]

theorem decodeMisc_error_iff (x : Nibble) (nn : Byte) : (∃ e, decodeMisc x nn = .error e) ↔
    nn ∉ [0x07#8, 0x0A#8, 0x15#8, 0x18#8, 0x1E#8, 0x29#8, 0x33#8, 0x55#8, 0x65#8] := by
  unfold decodeMisc
  split <;> simp_all [← BitVec.toNat_inj]

theorem not_illegalWord_of_full {w : Word} (hop : opOf w ∈ fullFamilies) : ¬ Machine.IllegalWord w := by
  unfold Machine.IllegalWord
  generalize opOf w = op at hop ⊢
  simp only [fullFamilies, List.mem_cons, List.not_mem_nil, or_false] at hop
  rcases hop with rfl | rfl | rfl | rfl | rfl | rfl | rfl | rfl | rfl <;> simp

/-- Settles O7, family by family: each clause of R90 is the error case of one family or of families 5 and 9. -/
theorem illegalWordsAreTheListedOnes : Obligations.IllegalWordsAreTheListedOnes := by
  intro w
  have hw := decodedByOp_decode w
  generalize decode w = d at hw
  cases hw with
  | system hop => simp [Machine.IllegalWord, hop, decodeSystem_error_iff]
  | alu hop => simp [Machine.IllegalWord, hop, decodeAlu_error_iff]
  | familyB hop => simp [Machine.IllegalWord, hop]
  | key hop => simp [Machine.IllegalWord, hop, decodeKey_error_iff]
  | misc hop => simp [Machine.IllegalWord, hop, decodeMisc_error_iff]
  | skip hop hn => rcases hop with hop | hop <;> simp [Machine.IllegalWord, hop, hn]
  | notSkip hop hn => exact ⟨fun _ => .inr (.inl ⟨hop, hn⟩), fun _ => ⟨_, rfl⟩⟩
  | full hop => simp [not_illegalWord_of_full hop]

/-! ### The rows of the opcode table -/

theorem tableShape_statement : ∀ i : Instr, Laws.TableShape.Statement i
  | .cls => Laws.TableShape.cls
  | .ret => Laws.TableShape.ret
  | .jp nnn => Laws.TableShape.jp nnn
  | .call nnn => Laws.TableShape.call nnn
  | .seImm x nn => Laws.TableShape.seImm x nn
  | .sneImm x nn => Laws.TableShape.sneImm x nn
  | .seReg x y => Laws.TableShape.seReg x y
  | .ldImm x nn => Laws.TableShape.ldImm x nn
  | .addImm x nn => Laws.TableShape.addImm x nn
  | .ldReg x y => Laws.TableShape.ldReg x y
  | .orReg x y => Laws.TableShape.orReg x y
  | .andReg x y => Laws.TableShape.andReg x y
  | .xorReg x y => Laws.TableShape.xorReg x y
  | .addReg x y => Laws.TableShape.addReg x y
  | .sub x y => Laws.TableShape.sub x y
  | .shr x y => Laws.TableShape.shr x y
  | .subn x y => Laws.TableShape.subn x y
  | .shl x y => Laws.TableShape.shl x y
  | .sneReg x y => Laws.TableShape.sneReg x y
  | .ldI nnn => Laws.TableShape.ldI nnn
  | .rnd x nn => Laws.TableShape.rnd x nn
  | .drw x y n => Laws.TableShape.drw x y n
  | .skp x => Laws.TableShape.skp x
  | .sknp x => Laws.TableShape.sknp x
  | .ldVxDt x => Laws.TableShape.ldVxDt x
  | .ldVxK x => Laws.TableShape.ldVxK x
  | .ldDtVx x => Laws.TableShape.ldDtVx x
  | .ldStVx x => Laws.TableShape.ldStVx x
  | .addI x => Laws.TableShape.addI x
  | .ldF x => Laws.TableShape.ldF x
  | .ldB x => Laws.TableShape.ldB x
  | .ldMemVx x => Laws.TableShape.ldMemVx x
  | .ldVxMem x => Laws.TableShape.ldVxMem x

/-- Two rows of the table differ in a bit that both masks keep, unless they are the same row. -/
theorem opcodeTable_disjoint : ∀ r ∈ opcodeTable, ∀ r' ∈ opcodeTable,
    r.pattern &&& r'.mask = r'.pattern &&& r.mask → r = r' := by
  decide

/-- Two rows that select one word agree in the bits that both masks keep (30_encoding.md R91). -/
theorem row_unique {r r' : OpRow} {w : Word} (hr : r ∈ opcodeTable) (hr' : r' ∈ opcodeTable)
    (h : r.selects w = true) (h' : r'.selects w = true) : r = r' := by
  have hp : w &&& r.mask = r.pattern := eq_of_beq h
  have hp' : w &&& r'.mask = r'.pattern := eq_of_beq h'
  refine opcodeTable_disjoint r hr r' hr' ?_
  rw [← hp, ← hp', BitVec.and_assoc, BitVec.and_assoc, BitVec.and_comm r.mask]

/-- Settles O8: a decoded word is its instruction's encoding, which the instruction's row selects, and no second row
selects the same word. -/
theorem exactlyOneRowSelectsALegalWord : Obligations.ExactlyOneRowSelectsALegalWord := by
  intro w
  have hrow : ∀ i, decode w = .ok i → i.row ∈ opcodeTable ∧ i.row.selects w = true := fun i h =>
    encodeOfDecodeIsTheWord w i h ▸ tableShape_statement i
  refine ⟨fun i h => ?one, fun hnone => ?none⟩
  case one =>
    obtain ⟨hmem, hsel⟩ := hrow i h
    exact ⟨hmem, hsel, fun r hr hrw => row_unique hr hmem hrw hsel⟩
  case none =>
    cases h : decode w with
    | error e => exact ⟨e, rfl⟩
    | ok i =>
      obtain ⟨hmem, hsel⟩ := hrow i h
      rw [hnone i.row hmem] at hsel
      cases hsel

end Sys2Proof
end

section
/-! SUPPORT. An instruction tick through the transition: the step of R94, then what ends the tick, with the proofs of
O10, O11 and O13. -/

namespace Sys2Proof.Machine

/-! ### Frames of the operations around the instructions -/

theorem setInputs_onlyWrites (s : State) (es : List Event) : OnlyWrites [.inputs] s (s.setInputs es) := by
  intro p hp
  cases p
  case inputs => exact absurd hp (by decide)
  all_goals rfl

theorem startCounter_onlyWrites (s : State) (k : Key) : OnlyWrites [.keys] s (s.startCounter k) := by
  intro p hp
  cases p
  case keys => exact absurd hp (by decide)
  all_goals cases k <;> rfl

theorem deliver_onlyWrites (s : State) (k : Key) : OnlyWrites [.wait] s (s.deliver k) := by
  cases k with
  | exit => exact .refl _ s
  | hex k =>
    simp only [State.deliver]
    split
    · exact setWait_onlyWrites s _
    · exact .refl _ s

theorem registerPress_onlyWrites (s : State) (k : Key) : OnlyWrites [.keys, .wait] s (s.registerPress k) :=
  (startCounter_onlyWrites s k).trans (deliver_onlyWrites _ k)

theorem pressBetween_onlyWrites (s : State) (ks : List Key) : OnlyWrites [.keys, .wait] s (s.pressBetween ks) := by
  unfold State.pressBetween
  split
  · exact List.foldlRecOn ks State.registerPress (.refl _ s) fun t ht k _ =>
      (ht.trans (registerPress_onlyWrites t k)).mono (by decide)
  · exact .refl _ s

theorem exitCheck_onlyWrites (s : State) : OnlyWrites [.run] s s.exitCheck := by
  intro p hp
  unfold State.exitCheck
  cases p
  case run => exact absurd hp (by decide)
  all_goals split <;> rfl

theorem countTick_onlyWrites (s : State) : OnlyWrites [.div, .inputs] s s.countTick := by
  intro p hp
  unfold State.countTick
  cases p
  case div | inputs => exact absurd hp (by decide)
  all_goals split <;> [split; skip] <;> rfl

/-! ### The end of an instruction tick -/

/-- The state an instruction tick leaves when its step leaves `w`: the presses after the step, the exit check and, when
the tick is the reference schedule's, its count (60_exceptions.md R221, R228). -/
def State.endTick (w : State) (ks : List Key) (reference : Prop) [Decidable reference] : State :=
  if reference then (w.pressBetween ks).exitCheck.countTick else (w.pressBetween ks).exitCheck

/-- A transition on an instruction tick is the step of R94 and the end of the tick. -/
theorem step_of_runInstr {s w : State} {ks : List Key} (hr : s.run = .running) (hn : s.nextEvent = .instrTick ks)
    (hw : (s.setInputs s.inputs.tail).runInstr = .next w) : step s = .next (w.endTick ks (s.inputs = [])) := by
  have ht : (s.setInputs s.inputs.tail).instrTick ks = .next (w.pressBetween ks).exitCheck := by
    rw [State.instrTick, hw]
  exact (transition_instrTick s ks hr hn).trans (by rw [ht]; rfl)

/-- The exit check of a run that goes on ends it exactly when EXIT is pressed (R222). -/
theorem exitCheck_run_of_running {s : State} (h : s.run = .running) :
    s.exitCheck.run = if s.isPressed .exit then .stoppedExit else .running := by
  unfold State.exitCheck
  by_cases he : s.isPressed .exit = true
  · rw [if_pos ⟨h, he⟩, if_pos he]
  · rw [if_neg fun hc => he hc.2, if_neg he, h]

section
variable {w : State} (ks : List Key) (reference : Prop) [Decidable reference]

/-- After a step that stopped the run, the tick has nothing more to do (R216, R224). -/
theorem endTick_stopped (h : w.run ≠ .running) : w.endTick ks reference = w := by
  simp only [State.endTick, pressBetween_stopped h, exitCheck_stopped h, countTick_stopped h, ite_self]

theorem endTick_of_not (h : ¬ reference) : w.endTick ks reference = (w.pressBetween ks).exitCheck := if_neg h

theorem endTick_record : (w.endTick ks reference).record = w.record := by
  unfold State.endTick
  split <;> simp

/-- EXIT ends the run exactly when it was pressed before the tick's end or is among its presses (R222). -/
theorem endTick_run_of_running (h : w.run = .running) : (w.endTick ks reference).run =
    if w.isPressed .exit = true ∨ Key.exit ∈ ks then .stoppedExit else .running := by
  have hp : (w.pressBetween ks).isPressed .exit = true ↔ w.isPressed .exit = true ∨ Key.exit ∈ ks := by
    rw [pressBetween_running h, isPressed_eq, counter_foldl_registerPress, isPressed_eq]
    split <;> simp [*]
  have he : (w.endTick ks reference).run = (w.pressBetween ks).exitCheck.run := by
    unfold State.endTick
    split <;> simp
  rw [he, exitCheck_run_of_running (by simpa using h)]
  simp only [hp]

/-- The presses reach the keys and the subscriber, the exit check the run, the count div and the frame tick to come. -/
theorem endTick_onlyWrites : OnlyWrites [.run, .keys, .wait, .div, .inputs] w (w.endTick ks reference) := by
  have hp := (pressBetween_onlyWrites w ks).trans (exitCheck_onlyWrites _)
  unfold State.endTick
  split
  · exact (hp.trans (countTick_onlyWrites _)).mono (by decide)
  · exact hp.mono (by decide)

theorem endTick_nil_onlyWrites : OnlyWrites [.run, .div, .inputs] w (w.endTick [] reference) := by
  unfold State.endTick
  rw [pressBetween_nil]
  split
  · exact (exitCheck_onlyWrites w).trans (countTick_onlyWrites _)
  · exact (exitCheck_onlyWrites w).mono (by decide)

end

/-- Settles O13: what `step()` leaves is stopped on its fault and nothing follows in the tick, or it is running and the
presses and the exit check follow. -/
theorem exitKeyEndsTheRunAfterAStep : Obligations.ExitKeyEndsTheRunAfterAStep := by
  intro s ks hr hn
  obtain ⟨w, hw, -, hcase⟩ := instrTick_cases (s.setInputs s.inputs.tail) ks
  refine ⟨w, _, hw, step_of_runInstr hr hn hw, ?_⟩
  rcases hcase with ⟨r, rfl⟩ | hc
  · exact .inl ⟨rfl, endTick_stopped ks _ (by simp)⟩
  · have hrun : w.run = .running := hc.run.trans hr
    have hexit : w.isPressed .exit = s.isPressed .exit :=
      congrArg Option.isSome (counter_congr (s := s) hc.hexKeys hc.exitKey .exit)
    refine .inr ⟨hrun, endTick_record ks _, ?run, (endTick_onlyWrites ks _).onlyChanges, ?noPress, ?listed⟩
    case run => rw [endTick_run_of_running ks _ hrun, hexit]
    case noPress =>
      rintro rfl
      exact (endTick_nil_onlyWrites _).onlyChanges
    case listed =>
      intro hi
      rw [endTick_of_not ks _ hi]
      simp [hc.inputs]

/-! ### The step of R94 -/

/-- Below 0xFFF the step of R94 is the instruction the two bytes at pc decode to (R81). -/
theorem runInstr_of_decode {s : State} {i : Instr} (hpc : s.pc.toNat < 0xFFF)
    (hi : decode (joinBytes (s.readByte s.pc.toNat) (s.readByte (s.pc.toNat + 1))) = .ok i) :
    s.runInstr = exec i s := by
  simp only [State.runInstr, fetch_of_pc_lt hpc, State.runWord, hi]

/-- Settles O10: the instruction answers a next state, which is what the step of R94 leaves. -/
theorem stepRunsTheDecodedInstruction : Obligations.StepRunsTheDecodedInstruction := by
  intro s ks i hr hn hpc hi
  have hrun : (s.setInputs s.inputs.tail).runInstr = exec i (s.setInputs s.inputs.tail) := runInstr_of_decode hpc hi
  obtain ⟨w, hw, -, -⟩ := instrTick_cases (s.setInputs s.inputs.tail) ks
  rw [step_of_runInstr hr hn hw, ← hrun, hw]
  rfl

/-! ### A tick that faults -/

/-- When the step of R94 stops on a fatal condition, so does the transition, and only the tick is taken off the events
to come (60_exceptions.md R215, R224). -/
theorem step_of_fault {s : State} {ks : List Key} {r : FaultRecord} (hr : s.run = .running)
    (hn : s.nextEvent = .instrTick ks)
    (h : (s.setInputs s.inputs.tail).runInstr = .next ((s.setInputs s.inputs.tail).stopFault r)) :
    ∃ t, step s = .next t ∧ t.run = .stoppedFault ∧ OnlyChanges [.run, .inputs] s t ∧ t.inputs = s.inputs.tail ∧
      t.record = some r := by
  refine ⟨_, (step_of_runInstr hr hn h).trans (by rw [endTick_stopped ks _ (by simp)]), rfl, ?_, rfl, rfl⟩
  exact (((setInputs_onlyWrites s _).trans (stopFault_onlyWrites _ r)).mono (by decide)).onlyChanges

theorem runInstr_of_fetch_error {s : State} {r : FaultRecord} (h : s.fetch = .error r) :
    s.runInstr = .next (s.stopFault r) := by
  simp only [State.runInstr, h]

theorem fetch_of_pc_out_of_range {s : State} (h : 0x1000 ≤ s.pc.toNat) :
    s.fetch = .error (s.faultRecord .addressError none none (some s.pc.toNat)) := by
  rcases fetch_cases s with ⟨hpc, -⟩ | ⟨hpc, -⟩ | ⟨-, e⟩
  · omega
  · omega
  · exact e

theorem fetch_of_pc_last {s : State} (h : s.pc.toNat = 0xFFF) :
    s.fetch = .error (s.faultRecord .addressError (some (s.readByte 0xFFF)) none (some 0x1000)) := by
  rcases fetch_cases s with ⟨hpc, -⟩ | ⟨-, e⟩ | ⟨hpc, -⟩
  · omega
  · exact e
  · omega

/-- Settles O11: the fetch by the range of pc, and a fetch that faults is a tick that faults. -/
theorem fetchReadsTwoBytesHighFirst : Obligations.FetchReadsTwoBytesHighFirst := by
  intro s
  refine ⟨fetch_of_pc_lt, joinBytes_toNat, fun ks hr hn hpc => ?outOfRange, fun ks hr hn hpc => ?last⟩
  case outOfRange =>
    exact step_of_fault hr hn (runInstr_of_fetch_error (fetch_of_pc_out_of_range (s := s.setInputs s.inputs.tail) hpc))
  case last =>
    exact step_of_fault hr hn (runInstr_of_fetch_error (fetch_of_pc_last (s := s.setInputs s.inputs.tail) hpc))

end Sys2Proof.Machine
end

section
/-! SUPPORT. What CALL, RET and the comparisons do on each side of their conditions, and the proofs of O27 to O31. -/

namespace Sys2Proof.Machine

/-- A fatal condition of an instruction stops the run with the record of R214 and changes nothing else (R215). -/
theorem raise_stoppedOn (s : State) (kind : FaultKind) (ins : Instr) (addr : Option Nat) :
    ∃ t, s.raise kind ins addr = .next t ∧ StoppedOn s t kind kind.code (hiByte (encode ins)) (loByte (encode ins))
      (addr.map (BitVec.ofNat 17)) :=
  ⟨_, rfl, rfl, rfl, (stopFault_onlyWrites s _).onlyChanges⟩

/-! ### The stack below and at its bounds -/

theorem exec_call_of_sp_lt {nnn : Addr12} {s : State} (h : s.sp.val < 16) :
    ∃ t, exec (.call nnn) s = .next t ∧ t.pc = zext16 nnn ∧ t.sp.val = s.sp.val + 1 ∧
      t.stack = s.stack.set s.sp.val (s.pc + 2) h ∧ OnlyWrites [.stack, .pc] s t := by
  rcases execCall_cases nnn s with ⟨hfull, -⟩ | ⟨_, t, ht⟩
  · omega
  · exact ⟨t, ht⟩

theorem exec_call_of_sp_eq {nnn : Addr12} {s : State} (h : s.sp.val = 16) :
    exec (.call nnn) s = s.raise .stackOverflow (.call nnn) none := by
  rcases execCall_cases nnn s with ⟨-, e⟩ | ⟨hroom, -⟩
  · exact e
  · omega

theorem exec_ret_of_sp_ne {s : State} (h : s.sp.val ≠ 0) :
    ∃ t, exec .ret s = .next t ∧ t.pc = s.stack[s.sp.val - 1] ∧ t.sp.val = s.sp.val - 1 ∧ t.stack = s.stack ∧
      OnlyWrites [.stack, .pc] s t := by
  rcases execRet_cases s with ⟨hempty, -⟩ | ⟨-, ht⟩
  · exact absurd hempty h
  · exact ht

theorem exec_ret_of_sp_eq {s : State} (h : s.sp.val = 0) : exec .ret s = s.raise .stackUnderflow .ret none := by
  rcases execRet_cases s with ⟨-, e⟩ | ⟨hne, -⟩
  · exact e
  · exact absurd h hne

/-! ### Jump, call and return -/

/-- Settles O27: JP writes pc alone, with the zero-extended nnn. -/
theorem jumpSetsPc : Obligations.JumpSetsPc := fun nnn s =>
  ⟨decode_encode (.jp nnn), _, rfl, zext16_toNat nnn, (setPc_onlyWrites s _).onlyChanges⟩

/-- Settles O28: by whether the stack has room. -/
theorem callPushesTheNextAddressAndJumps : Obligations.CallPushesTheNextAddressAndJumps := by
  intro nnn s
  refine ⟨decode_encode (.call nnn), fun h => ?room, fun h => ?full⟩
  case room =>
    obtain ⟨t, e, hpc, hsp, hstack, ht⟩ := exec_call_of_sp_lt (nnn := nnn) h
    exact ⟨t, e, hpc ▸ zext16_toNat nnn, hsp, by simp [hstack],
      fun k hk hne => by simp [hstack, Vector.getElem_set_ne, hne.symm], ht.onlyChanges⟩
  case full =>
    rw [exec_call_of_sp_eq h]
    exact raise_stoppedOn s .stackOverflow (.call nnn) none

/-- Settles O29: by whether the stack holds an entry. -/
theorem returnPopsPc : Obligations.ReturnPopsPc := by
  intro s
  refine ⟨decode_encode .ret, fun h => ?entry, fun h => ?empty⟩
  case entry =>
    obtain ⟨t, e, hpc, hsp, hstack, ht⟩ := exec_ret_of_sp_ne h
    exact ⟨t, e, hpc, hsp, hstack, ht.onlyChanges⟩
  case empty =>
    rw [exec_ret_of_sp_eq h]
    exact raise_stoppedOn s .stackUnderflow .ret none

/-- Settles O30: the entry RET takes is the one CALL set at the old sp, and neither writes beside the stack and pc. -/
theorem returnResumesAfterTheCall : Obligations.ReturnResumesAfterTheCall := by
  intro nnn s h
  obtain ⟨t, hcall, -, htsp, htstack, ht⟩ := exec_call_of_sp_lt (nnn := nnn) h
  obtain ⟨u, hret, hupc, husp, hustack, hu⟩ := exec_ret_of_sp_ne (s := t) (by omega)
  have hsp : u.sp = s.sp := Fin.ext (by omega)
  have hstack : u.stack = s.stack.set s.sp.val (s.pc + 2) h := hustack.trans htstack
  have htop : t.stack[t.sp.val - 1] = s.pc + 2 := by simp [htsp, htstack]
  exact ⟨t, u, hcall, hret, hupc.trans htop, hsp, fun k hk hne => by simp [hstack, Vector.getElem_set_ne, hne.symm],
    ((ht.trans hu).mono (by decide)).onlyChanges⟩

/-! ### The comparisons -/

/-- A skip goes to pc + 4 or pc + 2 by its condition and writes pc alone (R103). -/
theorem skipIf_skips (s : State) {c : Bool} {holds fails : Prop} (ht : c = true ↔ holds) (hf : c = false ↔ fails) :
    (holds → (s.skipIf c).pc = s.pc + 4) ∧ (fails → (s.skipIf c).pc = s.pc + 2) ∧ OnlyChanges [.pc] s (s.skipIf c) :=
  ⟨fun h => by simp [ht.mpr h], fun h => by simp [hf.mpr h], (skipIf_onlyWrites s c).onlyChanges⟩

/-- Settles O31: each comparison is a skip on the equality, or on the inequality, of its operands. -/
theorem comparisonsSkip : Obligations.ComparisonsSkip :=
  ⟨fun x nn s => ⟨decode_encode (.seImm x nn), _, rfl, skipIf_skips s beq_iff_eq beq_eq_false_iff_ne⟩,
    fun x nn s => ⟨decode_encode (.sneImm x nn), _, rfl, skipIf_skips s bne_iff_ne bne_eq_false_iff_eq⟩,
    fun x y s => ⟨decode_encode (.seReg x y), _, rfl, skipIf_skips s beq_iff_eq beq_eq_false_iff_ne⟩,
    fun x y s => ⟨decode_encode (.sneReg x y), _, rfl, skipIf_skips s bne_iff_ne bne_eq_false_iff_eq⟩⟩

end Sys2Proof.Machine
end

section
/-! SUPPORT. What a register load and a result with its flag leave in the registers, the arithmetic of the ALU, and the
proofs of O32 to O40. -/

namespace Sys2Proof.Machine

/-! ### The shapes of R120 to R131 -/

/-- R120 to R125: a load leaves the byte in V[x] and pc two further, with every other register and part as it was. -/
theorem loadV_loads (s : State) (x : Nibble) (b : Byte) : ∃ t, s.loadV x b = .next t ∧ RegBecomes s t x b ∧
    t.pc = s.pc + 2 ∧ OnlyChanges [.v, .pc] s t :=
  ⟨_, rfl, ⟨readV_writeV_same s x b, fun _ h => readV_writeV_ne s b h⟩, rfl,
    (writeV_advance_onlyWrites s x b).onlyChanges⟩

/-- R133: away from VF the result and the flag stand in two registers; at x = F the last write stays. -/
theorem writeResultAndFlag_resultAndFlag (s : State) (x : Nibble) (res flag : Byte) :
    ResultAndFlag s (s.writeResultAndFlag x res flag) x res flag := by
  refine ⟨fun hx => ⟨?result, ?flag⟩, fun hx => ?last, fun r hx hf => ?others⟩
  case result =>
    have hvf : x ≠ vf := hx
    rw [readV_writeResultAndFlag, if_neg fun h => hvf h.1, if_neg hvf, if_pos rfl]
  case flag => rw [readV_writeResultAndFlag, if_neg fun h => hx h.2.symm]; rfl
  case last => rw [readV_writeResultAndFlag, if_pos ⟨rfl, hx.symm⟩]
  case others => exact readV_writeResultAndFlag_ne s res flag (not_or.mpr ⟨hx, hf⟩)

/-- R126 to R130: a result and its flag go where R133 puts them, pc is two further, and nothing else has changed. The
flag may be written as its rule says it. -/
theorem aluFlag_computes (s : State) (x : Nibble) (res : Byte) {flag rule : Byte} (h : flag = rule) :
    ∃ t, s.aluFlag x res flag = .next t ∧ ResultAndFlag s t x res rule ∧ t.pc = s.pc + 2 ∧ OnlyChanges [.v, .pc] s t :=
  ⟨_, rfl, h ▸ writeResultAndFlag_resultAndFlag s x res flag, congrArg (· + 2) (writeResultAndFlag_pc s x res flag),
    (aluFlag_onlyWrites s x res flag).onlyChanges⟩

/-! ### Arithmetic (R14, R132) -/

theorem u8_toNat (n : Nat) : (u8 n).toNat = n % 256 := BitVec.toNat_ofNat n 8

/-- Adding 256 before the subtraction keeps it on naturals and leaves the difference mod 256 as it is (R127). -/
theorem subBytes_toNat (a b : Byte) : ((subBytes a b).toNat : Int) = (a.toNat - b.toNat : Int) % 256 := by
  have hb : b.toNat < 256 := b.isLt
  rw [subBytes, u8_toNat]
  omega

theorem half_toNat (a : Byte) : (u8 (a.toNat / 2)).toNat = a.toNat / 2 := by
  have ha : a.toNat < 256 := a.isLt
  rw [u8_toNat]
  omega

/-! ### Flags (R126 to R130) -/

theorem flagByte_eq {c : Bool} {p : Prop} [Decidable p] (h : c = true ↔ p) : flagByte c = if p then 1 else 0 :=
  ite_congr (propext h) (fun _ => rfl) fun _ => rfl

theorem carryFlag_eq (a b : Byte) : carryFlag a b = if 255 < a.toNat + b.toNat then 1 else 0 :=
  flagByte_eq decide_eq_true_iff

theorem greaterFlag_eq (a b : Byte) : greaterFlag a b = if b.toNat < a.toNat then 1 else 0 :=
  flagByte_eq decide_eq_true_iff

/-- The bit shifted out to the right is the remainder of the division. -/
theorem lowBitFlag_eq (a : Byte) : lowBitFlag a = if a.toNat % 2 = 1 then 1 else 0 :=
  flagByte_eq (by rw [BitVec.getLsbD, Nat.testBit_zero, decide_eq_true_iff])

/-- The bit shifted out to the left is set from 128 on. -/
theorem highBitFlag_eq (a : Byte) : highBitFlag a = if 128 ≤ a.toNat then 1 else 0 :=
  flagByte_eq (by rw [← BitVec.msb_eq_getLsbD_last, BitVec.msb_eq_decide, decide_eq_true_iff])

/-! ### Register loads -/

/-- Settles O32: LD Vx, nn is the load of nn. -/
theorem loadImmediate : Obligations.LoadImmediate := fun x nn s =>
  ⟨decode_encode (.ldImm x nn), loadV_loads s x nn⟩

/-- Settles O33: ADD Vx, nn is the load of the narrowed sum. -/
theorem addImmediateWithoutFlag : Obligations.AddImmediateWithoutFlag := by
  intro x nn s
  obtain ⟨t, e, ht⟩ := loadV_loads s x (u8 ((s.readV x).toNat + nn.toNat))
  exact ⟨decode_encode (.addImm x nn), t, _, e, u8_toNat _, ht⟩

/-- Settles O34: LD Vx, Vy is the load of V[y]. -/
theorem copyRegister : Obligations.CopyRegister := fun x y s =>
  ⟨decode_encode (.ldReg x y), loadV_loads s x (s.readV y)⟩

/-- Settles O35: each operation is the load of its word, whose bits are the operation of the operands' bits. -/
theorem bitwiseOperations : Obligations.BitwiseOperations := by
  intro x y s
  refine ⟨⟨decode_encode (.orReg x y), ?or⟩, ⟨decode_encode (.andReg x y), ?and⟩, ⟨decode_encode (.xorReg x y), ?xor⟩⟩
  case or =>
    obtain ⟨t, e, ht⟩ := loadV_loads s x (s.readV x ||| s.readV y)
    exact ⟨t, _, e, fun _ => BitVec.getLsbD_or, ht⟩
  case and =>
    obtain ⟨t, e, ht⟩ := loadV_loads s x (s.readV x &&& s.readV y)
    exact ⟨t, _, e, fun _ => BitVec.getLsbD_and, ht⟩
  case xor =>
    obtain ⟨t, e, ht⟩ := loadV_loads s x (s.readV x ^^^ s.readV y)
    exact ⟨t, _, e, fun _ => BitVec.getLsbD_xor, ht⟩

/-- Settles O40: the load of the masked draw from the state in which the draw is counted. -/
theorem randomByteIsMasked : Obligations.RandomByteIsMasked := by
  intro x nn s
  have hx : (s.nextDraw.writeV x (Config.randomByte s.draws &&& nn)).advance.readV x =
      Config.randomByte s.draws &&& nn := readV_writeV_same s.nextDraw x _
  refine ⟨decode_encode (.rnd x nn), _, rfl, ⟨hx, fun _ h => readV_writeV_ne s.nextDraw _ h⟩, fun k hk => ?masked, rfl,
    rfl, (rnd_onlyWrites s x _).onlyChanges⟩
  case masked => rw [hx, BitVec.getLsbD_and, hk, Bool.and_false]

/-! ### Results with a flag -/

/-- Settles O36: the flag is the carry of the exact sum. -/
theorem addSetsTheCarry : Obligations.AddSetsTheCarry := by
  intro x y s
  obtain ⟨t, e, ht⟩ := aluFlag_computes s x (u8 ((s.readV x).toNat + (s.readV y).toNat)) (carryFlag_eq _ _)
  exact ⟨decode_encode (.addReg x y), t, _, e, u8_toNat _, ht⟩

/-- Settles O37: the flag is the strict comparison. -/
theorem subtractSetsTheStrictFlag : Obligations.SubtractSetsTheStrictFlag := by
  intro x y s
  obtain ⟨t, e, ht⟩ := aluFlag_computes s x (subBytes (s.readV x) (s.readV y)) (greaterFlag_eq _ _)
  exact ⟨decode_encode (.sub x y), t, _, e, subBytes_toNat _ _, ht⟩

/-- Settles O38: O37's operation with the operands exchanged, the result still in V[x]. -/
theorem reverseSubtractSetsTheStrictFlag : Obligations.ReverseSubtractSetsTheStrictFlag := by
  intro x y s
  obtain ⟨t, e, ht⟩ := aluFlag_computes s x (subBytes (s.readV y) (s.readV x)) (greaterFlag_eq _ _)
  exact ⟨decode_encode (.subn x y), t, _, e, subBytes_toNat _ _, ht⟩

/-- Settles O39: y names no operand, and the flag is the bit of V[x] that leaves the byte. -/
theorem shiftsCaptureTheBitShiftedOut : Obligations.ShiftsCaptureTheBitShiftedOut := by
  intro x y s
  refine ⟨⟨decode_encode (.shr x y), ?right⟩, ⟨decode_encode (.shl x y), ?left⟩⟩
  case right =>
    obtain ⟨t, e, ht⟩ := aluFlag_computes s x (u8 ((s.readV x).toNat / 2)) (lowBitFlag_eq _)
    exact ⟨t, _, e, half_toNat _, ht⟩
  case left =>
    obtain ⟨t, e, ht⟩ := aluFlag_computes s x (u8 ((s.readV x).toNat * 2)) (highBitFlag_eq _)
    exact ⟨t, _, e, u8_toNat _, ht⟩

end Sys2Proof.Machine
end

section
/-! SUPPORT. What a store at I, a load from I and a checked access out of range leave, and the proofs of O41 to O46. -/

namespace Sys2Proof.Machine

/-! ### The index register (R150 to R152) -/

theorem u16_toNat (n : Nat) : (u16 n).toNat = n % 65536 := BitVec.toNat_ofNat n 16

/-- R150 to R152: a load of I leaves the word in I and pc two further, with every other part as it was. The word's
value may be written as its rule says it. -/
theorem writeI_advance_loads (s : State) {w : Word} {n : Nat} (h : w.toNat = n) :
    ∃ t, (.next (s.writeI w).advance : Result) = .next t ∧ t.i.toNat = n ∧ t.pc = s.pc + 2 ∧
      OnlyChanges [.i, .pc] s t :=
  ⟨_, rfl, h, rfl, (writeI_advance_onlyWrites s w).onlyChanges⟩

/-- Five times a byte is below 65536, so the glyph's address is not narrowed (R152). -/
theorem glyphAddr_toNat (b : Byte) : (u16 (b.toNat * Config.glyphBytes)).toNat = b.toNat * 5 := by
  have hb : b.toNat < 256 := b.isLt
  rw [u16_toNat, Config.glyphBytes]
  omega

/-- Settles O41: both are loads of I, of the zero-extended nnn and of the glyph's address. -/
theorem indexRegisterLoads : Obligations.IndexRegisterLoads :=
  ⟨fun nnn s => ⟨decode_encode (.ldI nnn), writeI_advance_loads s (zext16_toNat nnn)⟩,
    fun x s => ⟨decode_encode (.ldF x), writeI_advance_loads s (glyphAddr_toNat (s.readV x))⟩⟩

/-- Settles O42: ADD I, Vx is the load of the narrowed sum. -/
theorem addToIndexRegister : Obligations.AddToIndexRegister := fun x s =>
  ⟨decode_encode (.addI x), writeI_advance_loads s (u16_toNat _)⟩

/-! ### Accesses that leave memory -/

/-- A checked access that reaches 0x1000 stops the run with AddressError at I when I is out of range and at 0x1000 when
it is not (R69, R213). The bytes of the record are those the instruction's word is written with. -/
theorem checked_stoppedOn {s : State} {n : Nat} {ins : Instr} {b0 b1 : Byte} (hw : encode ins = joinBytes b0 b1)
    (hn : n ≠ 0) (h : 0x1000 < s.i.toNat + n) (t : State) :
    ∃ u, s.checked n ins t = .next u ∧ StoppedOn s u .addressError 4 b0 b1
      (some (BitVec.ofNat 17 (if 0x1000 ≤ s.i.toNat then s.i.toNat else 0x1000))) := by
  rcases checked_cases s n ins t with ⟨hok, -⟩ | ⟨-, -, e⟩
  · omega
  · have hfirst : max s.i.toNat 0x1000 = if 0x1000 ≤ s.i.toNat then s.i.toNat else 0x1000 := by
      rw [max_comm, max_def]
    have hstop := raise_stoppedOn s .addressError ins (some (max s.i.toNat 0x1000))
    rw [hw, hiByte_joinBytes, loByte_joinBytes, hfirst] at hstop
    rw [e, hfirst]
    exact hstop

/-! ### Stores -/

/-- A store at I reaches the bytes from I to its last one, and pc is two further (R69). -/
theorem storeBytes_advance_frame (s : State) {bs : List Byte} {last : Nat} (h : bs.length = last + 1) :
    (∀ a, a < s.i.toNat ∨ s.i.toNat + last < a → (s.storeBytes s.i.toNat bs).advance.readByte a = s.readByte a) ∧
      (s.storeBytes s.i.toNat bs).advance.pc = s.pc + 2 ∧
      OnlyChanges [.mem, .pc] s (s.storeBytes s.i.toNat bs).advance :=
  ⟨fun a ha => readByte_storeBytes_outside s _ bs a (by omega), rfl, (storeBytes_advance_onlyWrites s _ bs).onlyChanges⟩

/-- The three digits of a byte are bytes, so what is stored is the digit itself (R153). -/
theorem readByte_storeBytes_bcdDigits (s : State) (a : Nat) (b : Byte) :
    ((s.storeBytes a (bcdDigits b)).readByte a).toNat = b.toNat / 100 ∧
      ((s.storeBytes a (bcdDigits b)).readByte (a + 1)).toNat = b.toNat / 10 % 10 ∧
      ((s.storeBytes a (bcdDigits b)).readByte (a + 2)).toNat = b.toNat % 10 := by
  have hb : b.toNat < 256 := b.isLt
  have stored (k d : Nat) (hk : k < 3) (hd : (bcdDigits b)[k] = u8 d) (hlt : d < 256) :
      ((s.storeBytes a (bcdDigits b)).readByte (a + k)).toNat = d := by
    rw [readByte_storeBytes_inside s a (bcdDigits b) k hk, hd, u8_toNat, Nat.mod_eq_of_lt hlt]
  exact ⟨stored 0 _ (by omega) rfl (by omega), stored 1 _ (by omega) rfl (by omega),
    stored 2 _ (by omega) rfl (by omega)⟩

theorem exec_ldB_of_in_range {x : Nibble} {s : State} (h : s.i.toNat + 2 < 0x1000) :
    exec (.ldB x) s = .next (s.storeBytes s.i.toNat (bcdDigits (s.readV x))).advance :=
  checked_of_in_range h _ _

/-- Settles O43: by whether the last digit's address is in memory. -/
theorem storeDecimalDigits : Obligations.StoreDecimalDigits := by
  intro x s
  refine ⟨decode_encode (.ldB x), fun h => ?inRange, fun h => ?outOfRange⟩
  case inRange =>
    obtain ⟨hundreds, tens, ones⟩ := readByte_storeBytes_bcdDigits s s.i.toNat (s.readV x)
    exact ⟨_, exec_ldB_of_in_range h, hundreds, tens, ones, storeBytes_advance_frame s (bcdDigits_length _)⟩
  case outOfRange => exact checked_stoppedOn (ins := .ldB x) rfl (by omega) (by omega) _

/-- The byte r places after the start of the stored registers is V[r]. -/
theorem readByte_storeBytes_reg (s : State) (a : Nat) {x r : Nibble} (h : r.toNat ≤ x.toNat) :
    (s.storeBytes a (s.regsUpTo x)).readByte (a + r.toNat) = s.readV r := by
  rw [readByte_storeBytes_regsUpTo s a h, BitVec.ofNat_toNat, BitVec.setWidth_eq]

/-- Settles O44: by whether the last register's address is in memory. -/
theorem storeRegisters : Obligations.StoreRegisters := by
  intro x s
  refine ⟨decode_encode (.ldMemVx x), fun h => ?inRange, fun h => ?outOfRange⟩
  case inRange =>
    exact ⟨_, exec_ldMemVx_of_in_range h, fun r hr => readByte_storeBytes_reg s s.i.toNat hr,
      storeBytes_advance_frame s (regsUpTo_length s x)⟩
  case outOfRange => exact checked_stoppedOn (ins := .ldMemVx x) rfl (by omega) (by omega) _

/-! ### Loads -/

/-- LD Vx, [I] with I + x in memory loads V0 to V[x] from I and goes on at the next instruction (R155). -/
theorem exec_ldVxMem_of_in_range {x : Nibble} {s : State} (h : s.i.toNat + x.toNat < 0x1000) :
    exec (.ldVxMem x) s = .next (s.loadRegs x).advance :=
  checked_of_in_range h _ _

theorem readV_loadRegs_advance_of_le (s : State) {x r : Nibble} (h : r.toNat ≤ x.toNat) :
    (s.loadRegs x).advance.readV r = s.readByte (s.i.toNat + r.toNat) := by
  rw [readV_congr (advance_v _), readV_loadRegs, if_pos h]

theorem readV_loadRegs_advance_of_lt (s : State) {x r : Nibble} (h : x.toNat < r.toNat) :
    (s.loadRegs x).advance.readV r = s.readV r := by
  rw [readV_congr (advance_v _), readV_loadRegs, if_neg (Nat.not_le_of_lt h)]

theorem loadRegs_advance_onlyWrites (s : State) (x : Nibble) : OnlyWrites [.v, .pc] s (s.loadRegs x).advance :=
  (loadRegs_onlyWrites s x).trans (advance_onlyWrites _)

/-- Settles O45: by whether the last register's address is in memory. -/
theorem loadRegisters : Obligations.LoadRegisters := by
  intro x s
  refine ⟨decode_encode (.ldVxMem x), fun h => ?inRange, fun h => ?outOfRange⟩
  case inRange =>
    exact ⟨_, exec_ldVxMem_of_in_range h, fun r hr => readV_loadRegs_advance_of_le s hr,
      fun r hr => readV_loadRegs_advance_of_lt s hr, congrArg (· + 2) (loadRegs_pc s x),
      (loadRegs_advance_onlyWrites s x).onlyChanges⟩
  case outOfRange => exact checked_stoppedOn (ins := .ldVxMem x) rfl (by omega) (by omega) _

/-- Settles O46: a byte read looks only at the memory, so each load reads at I + r the V[r] that was stored there. -/
theorem loadRestoresWhatWasStored : Obligations.LoadRestoresWhatWasStored := by
  intro x s h
  refine ⟨_, exec_ldMemVx_of_in_range h, fun u hmem hi => ⟨_, exec_ldVxMem_of_in_range (hi ▸ h), fun r hr => ?_⟩⟩
  calc (u.loadRegs x).advance.readV r
      = u.readByte (s.i.toNat + r.toNat) := hi ▸ readV_loadRegs_advance_of_le u hr
    _ = (s.storeBytes s.i.toNat (s.regsUpTo x)).readByte (s.i.toNat + r.toNat) := readByte_congr hmem _
    _ = s.readV r := readByte_storeBytes_reg s s.i.toNat hr

end Sys2Proof.Machine
end

section
/-! SUPPORT. A draw on a framebuffer of its own and DRW's draw on the state, and the proofs of O49 to O51. -/

namespace Sys2Proof.Machine

/-! ### The draw on a framebuffer (R171 to R176) -/

/-- A byte other than 0 has a 1 bit among its eight columns. -/
theorem exists_spriteBit_of_ne_zero {b : Byte} (h : b ≠ 0) : ∃ dx, dx < 8 ∧ spriteBit b dx = true := by
  by_contra hnone
  push Not at hnone
  refine h (BitVec.eq_of_getLsbD_eq fun k hk => ?_)
  have hbit := hnone (7 - k) (by omega)
  rw [spriteBit, show 7 - (7 - k) = k by omega] at hbit
  simpa using hbit

/-- A sprite with a 1 bit has a pixel under it. -/
theorem exists_visit_of_ne_zero (wrap : Config.DrawWrap) (x0 y0 : Nat) {sprite : List Byte}
    (h : ∃ b ∈ sprite, b ≠ 0) : ∃ p, (p, true) ∈ visits wrap x0 y0 0 sprite := by
  obtain ⟨b, hb, hne⟩ := h
  obtain ⟨k, hk, rfl⟩ := List.mem_iff_getElem.mp hb
  obtain ⟨dx, hdx, hbit⟩ := exists_spriteBit_of_ne_zero hne
  exact ⟨_, (mem_visits wrap x0 y0 0 sprite _ true).mpr ⟨k, dx, hk, hdx, hbit, rfl⟩⟩

/-- Settles O51: each draw flips the same pixels, and on a clear framebuffer the first leaves them on for the second to
meet. -/
theorem drawingTwiceErases : Obligations.DrawingTwiceErases := by
  intro wrap fb x0 y0 sprite hlen
  obtain ⟨hpixel, hcollision⟩ := draw_spec wrap fb x0 y0 sprite hlen
  obtain ⟨hpixel', hcollision'⟩ := draw_spec wrap (draw wrap fb x0 y0 sprite).1 x0 y0 sprite hlen
  refine ⟨frame_ext fun p => ?erased, fun hclear => ⟨?first, fun hbit => ?second⟩⟩
  case erased => rw [hpixel', hpixel, Bool.bne_assoc, bne_self_eq_false, Bool.bne_false]
  case first =>
    rw [← Bool.not_eq_true, hcollision]
    rintro ⟨p, -, hp⟩
    rw [hclear p] at hp
    exact Bool.false_ne_true hp
  case second =>
    obtain ⟨p, hp⟩ := exists_visit_of_ne_zero wrap x0 y0 hbit
    exact hcollision'.mpr ⟨p, hp, by rw [hpixel, hclear, decide_eq_true hp, Bool.false_bne]⟩

/-! ### CLS and DRW (R177, R178) -/

theorem setFb_advance_onlyWrites (s : State) (fb : Frame) : OnlyWrites [.fb, .pc] s (s.setFb fb).advance :=
  (setFb_onlyWrites s fb).trans (advance_onlyWrites _)

/-- Settles O49: CLS writes the clear framebuffer and pc. -/
theorem clearTurnsEveryPixelOff : Obligations.ClearTurnsEveryPixelOff := fun s =>
  ⟨decode_encode .cls, _, rfl, pixel_clearFrame, rfl, (setFb_advance_onlyWrites s _).onlyChanges⟩

/-- A covered pixel has R172's index of a row and a column whose sprite bit is set. -/
theorem spriteCovers_iff (s : State) (x y n : Nibble) (p : Fin 2048) : SpriteCovers s x y n p ↔
    ∃ dy dx, dy < n.toNat ∧ dx < 8 ∧ spriteBit (s.readByte (s.i.toNat + dy)) dx = true ∧
      p = pixelIndex s.cfg.drawWrap ((s.readV x).toNat + dx) ((s.readV y).toNat + dy) := by
  refine exists₂_congr fun dy dx => and_congr_right' (and_congr_right' (and_congr_right' ?_))
  rw [Fin.ext_iff]
  cases s.cfg.drawWrap <;> rfl

/-- The covered pixels are those the draw visits with a 1 bit: its sprite is the bytes from I on. -/
theorem spriteCovers_iff_mem_visits (s : State) (x y n : Nibble) (p : Fin 2048) : SpriteCovers s x y n p ↔
    (p, true) ∈ visits s.cfg.drawWrap (s.readV x).toNat (s.readV y).toNat 0 (s.indexBytes n.toNat) := by
  rw [spriteCovers_iff, mem_visits]
  refine exists₂_congr fun dy dx => ?_
  simp [and_left_comm]

/-- R171, R173: DRW's draw flips the covered pixels, and collides exactly when one of them was on before it. -/
theorem drawSprite_spec (s : State) (x y n : Nibble) :
    (∀ p, SpriteCovers s x y n p → pixel (s.drawSprite x y n).1 p = !pixel s.fb p) ∧
    (∀ p, ¬ SpriteCovers s x y n p → pixel (s.drawSprite x y n).1 p = pixel s.fb p) ∧
    ((s.drawSprite x y n).2 = true ↔ ∃ p, SpriteCovers s x y n p ∧ pixel s.fb p = true) := by
  have hlen : (s.indexBytes n.toNat).length ≤ 15 := by
    have hn : n.toNat < 16 := n.isLt
    rw [indexBytes_eq, List.length_map, List.length_range]
    omega
  obtain ⟨hpixel, hcollision⟩ := draw_spec s.cfg.drawWrap s.fb (s.readV x).toNat (s.readV y).toNat _ hlen
  simp only [spriteCovers_iff_mem_visits]
  refine ⟨fun p hp => ?covered, fun p hp => ?uncovered, hcollision⟩
  case covered => rw [State.drawSprite, hpixel, decide_eq_true hp, Bool.bne_true]
  case uncovered => rw [State.drawSprite, hpixel, decide_eq_false hp, Bool.bne_false]

/-- A sprite of no bytes, or one that ends in memory, is drawn, and VF takes the collision (R178). -/
theorem exec_drw_of_in_range {x y n : Nibble} {s : State} (h : n.toNat = 0 ∨ s.i.toNat + n.toNat - 1 < 0x1000) :
    exec (.drw x y n) s =
      .next ((s.setFb (s.drawSprite x y n).1).writeV vf (flagByte (s.drawSprite x y n).2)).advance := by
  rcases checked_cases s n.toNat (.drw x y n) _ with ⟨-, e⟩ | ⟨hn, hbad, -⟩
  · exact e
  · omega

theorem drw_onlyWrites (s : State) (fb : Frame) (flag : Byte) :
    OnlyWrites [.v, .fb, .pc] s ((s.setFb fb).writeV vf flag).advance :=
  ((setFb_onlyWrites s fb).trans (writeV_advance_onlyWrites _ vf flag)).mono (by decide)

theorem encode_drw (x y n : Nibble) : encode (.drw x y n) = joinBytes (0xD#4 ++ x) (y ++ n) :=
  BitVec.append_assoc

/-- Settles O50: by whether the sprite is in memory. -/
theorem drawFlipsTheCoveredPixels : Obligations.DrawFlipsTheCoveredPixels := by
  intro x y n s
  refine ⟨decode_encode (.drw x y n), fun h => ?inRange, fun hn h => ?outOfRange⟩
  case inRange =>
    obtain ⟨hcovered, huncovered, hcollision⟩ := drawSprite_spec s x y n
    have hvf := readV_writeV_same (s.setFb (s.drawSprite x y n).1) vf (flagByte (s.drawSprite x y n).2)
    refine ⟨_, exec_drw_of_in_range h, hcovered, huncovered, fun hon => ?flagOn, fun hoff => ?flagOff,
      fun r hr => readV_writeV_ne _ _ hr, rfl, (drw_onlyWrites s _ _).onlyChanges⟩
    case flagOn => exact hvf.trans (by rw [hcollision.mpr hon]; rfl)
    case flagOff => exact hvf.trans (by rw [Bool.eq_false_of_not_eq_true (mt hcollision.mp hoff)]; rfl)
  case outOfRange => exact checked_stoppedOn (encode_drw x y n) hn (by omega) _

end Sys2Proof.Machine
end

section
/-! SUPPORT. What presses, key reads and frame ticks do to the counters and the subscriber, what the timer instructions
do, and the proofs of O15, O22 and O52 to O55. -/

namespace Sys2Proof.Machine

/-! ### The subscriber after presses (R193) -/

theorem deliver_hex_of_waiting {s : State} (h : s.wait = .waiting) (k : Nibble) :
    s.deliver (.hex k) = s.setWait (.delivered k) :=
  if_pos h

theorem deliver_of_ne_waiting {s : State} (h : s.wait ≠ .waiting) (k : Key) : s.deliver k = s := by
  cases k with
  | exit => rfl
  | hex k => exact if_neg h

theorem registerPress_exit_wait (s : State) : (s.registerPress .exit).wait = s.wait := rfl

theorem registerPress_hex_wait {s : State} (h : s.wait = .waiting) (k : Nibble) :
    (s.registerPress (.hex k)).wait = .delivered k := by
  rw [State.registerPress, deliver_hex_of_waiting (by simpa using h), setWait_wait]

theorem registerPress_wait_of_ne_waiting {s : State} (h : s.wait ≠ .waiting) (k : Key) :
    (s.registerPress k).wait = s.wait := by
  rw [State.registerPress, deliver_of_ne_waiting (by simpa using h), startCounter_wait]

/-- Presses of EXIT leave the subscriber alone. -/
theorem foldl_registerPress_wait_of_exit {ks : List Key} (h : ∀ k ∈ ks, k = .exit) (s : State) :
    (ks.foldl State.registerPress s).wait = s.wait :=
  List.foldlRecOn (motive := fun t => t.wait = s.wait) ks State.registerPress rfl fun _ ht k hk => by
    rw [h k hk, registerPress_exit_wait, ht]

/-- No press reaches a subscriber that does not wait. -/
theorem foldl_registerPress_wait_of_ne_waiting {s : State} (h : s.wait ≠ .waiting) (ks : List Key) :
    (ks.foldl State.registerPress s).wait = s.wait :=
  List.foldlRecOn (motive := fun t => t.wait = s.wait) ks State.registerPress rfl fun _ ht k _ =>
    (registerPress_wait_of_ne_waiting (ht ▸ h) k).trans ht

/-- A waiting subscriber gets the first hex key, and then waits no more. -/
theorem foldl_registerPress_wait_of_first_hex {s : State} (hw : s.wait = .waiting) {before : List Key}
    (hb : ∀ k ∈ before, k = .exit) (h : Nibble) (later : List Key) :
    ((before ++ .hex h :: later).foldl State.registerPress s).wait = .delivered h := by
  have hbefore : (before.foldl State.registerPress s).wait = .waiting :=
    (foldl_registerPress_wait_of_exit hb s).trans hw
  have hfirst := registerPress_hex_wait hbefore h
  rw [List.foldl_append, List.foldl_cons, foldl_registerPress_wait_of_ne_waiting (by simp [hfirst]), hfirst]

/-! ### The host's presses -/

/-- Settles O15: the transition registers the press, in the state with the event taken off. -/
theorem registerPressStartsTheCounterAndDelivers : Obligations.RegisterPressStartsTheCounterAndDelivers := by
  intro s k hr hn
  have hcounter := counter_registerPress (s.setInputs s.inputs.tail) k
  refine ⟨_, transition_registerPress s k hr hn, (hcounter k).trans (if_pos rfl),
    fun j hj => (hcounter j).trans (if_neg hj), ?delivers, ?keeps, registerPress_inputs _ k,
    (((setInputs_onlyWrites s _).trans (registerPress_onlyWrites _ k)).mono (by decide)).onlyChanges⟩
  case delivers =>
    rintro h rfl hw
    exact registerPress_hex_wait (s := s.setInputs s.inputs.tail) hw h
  case keeps =>
    rintro (rfl | hw)
    · rfl
    · exact registerPress_wait_of_ne_waiting (s := s.setInputs s.inputs.tail) hw k

/-- After the presses the tick's end reaches neither the keys nor the subscriber (R222, R228). -/
theorem pressBetween_endTick_onlyWrites (w : State) (ks : List Key) (reference : Prop) [Decidable reference] :
    OnlyWrites [.run, .div, .inputs] (w.pressBetween ks) (w.endTick ks reference) := by
  unfold State.endTick
  split
  · exact (exitCheck_onlyWrites _).trans (countTick_onlyWrites _)
  · exact (exitCheck_onlyWrites _).mono (by decide)

/-- Settles O55: the keys and the subscriber after the tick are those its presses leave. -/
theorem pressesFallBetweenStepAndExitCheck : Obligations.PressesFallBetweenStepAndExitCheck := by
  intro s ks w hr hn hw hrun
  have hend := pressBetween_endTick_onlyWrites w ks (s.inputs = [])
  rw [pressBetween_running hrun] at hend
  have hcounter (k : Key) : (w.endTick ks (s.inputs = [])).counter k = if k ∈ ks then some 1 else w.counter k :=
    (samePart_of_part_eq (hend .keys (by decide)) k).trans (counter_foldl_registerPress ks w k)
  have hwait : (w.endTick ks (s.inputs = [])).wait = (ks.foldl State.registerPress w).wait := hend .wait (by decide)
  refine ⟨_, step_of_runInstr hr hn hw, fun k hk => (hcounter k).trans (if_pos hk),
    fun k hk => (hcounter k).trans (if_neg hk), ?delivers, ?keeps, (endTick_onlyWrites ks _).onlyChanges⟩
  case delivers =>
    rintro before h later rfl hb hwaiting
    exact hwait.trans (foldl_registerPress_wait_of_first_hex hwaiting hb h later)
  case keeps =>
    rintro (hexit | hne)
    · exact hwait.trans (foldl_registerPress_wait_of_exit hexit w)
    · exact hwait.trans (foldl_registerPress_wait_of_ne_waiting hne ks)

/-! ### A counter along a run (R194, R231) -/

theorem counter_frameTick (s : State) (k : Key) : s.frameTick.counter k = ageCounter (s.counter k) := by
  rw [State.frameTick, counter_congr (timersTick_hexKeys _) (timersTick_exitKey _), counter_keyTick]
  rfl

theorem counter_pressBetween_of_notMem (s : State) {ks : List Key} {k : Key} (h : k ∉ ks) :
    (s.pressBetween ks).counter k = s.counter k := by
  unfold State.pressBetween
  split
  · rw [counter_foldl_registerPress, if_neg h]
  · rfl

/-- An instruction tick that carries no press of the key leaves its counter: no instruction writes one. -/
theorem counter_instrTick {s t : State} {ks : List Key} {k : Key} (h : s.instrTick ks = .next t) (hk : k ∉ ks) :
    t.counter k = s.counter k := by
  obtain ⟨w, -, ht, hw⟩ := instrTick_cases s ks
  cases ht.symm.trans h
  rw [counter_congr (exitCheck_hexKeys _) (exitCheck_exitKey _), counter_pressBetween_of_notMem w hk]
  rcases hw with ⟨r, rfl⟩ | hc
  · rfl
  · exact counter_congr hc.hexKeys hc.exitKey k

/-- Without a press of the key, only a frame tick changes its counter, and ages it. -/
theorem counter_handle {s t : State} {e : Event} {k : Key} (h : s.handle e = .next t) (hk : ¬ Presses e k) :
    t.counter k = if e = .frameTick then ageCounter (s.counter k) else s.counter k := by
  cases e with
  | instrTick ks => exact counter_instrTick h hk
  | frameTick => cases h; exact counter_frameTick s k
  | registerPress j => cases h; exact (counter_registerPress s j k).trans (if_neg (Ne.symm hk))

/-- How many frame ticks a counter is at most from its release. -/
def ticksLeft : Option Nat → Nat
  | none => 0
  | some c => c + 1

theorem eq_none_of_ticksLeft_eq_zero {c : Option Nat} (h : ticksLeft c = 0) : c = none := by
  cases c with
  | none => rfl
  | some c => exact absurd h (Nat.succ_ne_zero c)

theorem ticksLeft_ageCounter_le (c : Option Nat) : ticksLeft (ageCounter c) ≤ ticksLeft c - 1 := by
  cases c with
  | none => exact Nat.le_refl 0
  | some c =>
    rw [ageCounter]
    split
    · exact Nat.zero_le _
    · simp only [ticksLeft]
      omega

section
variable {e : Nat → Event} {r : Nat → State} {k : Key} {n : Nat}
variable (hrun : RunUnder e r) (hr : ∀ m, (r m).run = .running) (hk : ∀ m, n ≤ m → ¬ Presses (e m) k)
include hrun hr hk

theorem ticksLeft_antitone {a b : Nat} (ha : n ≤ a) (hab : a ≤ b) :
    ticksLeft ((r b).counter k) ≤ ticksLeft ((r a).counter k) := by
  induction b, hab using Nat.le_induction with
  | base => exact Nat.le_refl _
  | succ b hab ih =>
    refine Nat.le_trans ?_ ih
    rw [counter_handle (hrun b (hr b)) (hk b (ha.trans hab))]
    split
    · exact (ticksLeft_ageCounter_le _).trans (Nat.sub_le _ 1)
    · exact Nat.le_refl _

theorem ticksLeft_succ_of_frameTick {m : Nat} (hm : n ≤ m) (he : e m = .frameTick) :
    ticksLeft ((r (m + 1)).counter k) ≤ ticksLeft ((r m).counter k) - 1 := by
  rw [counter_handle (hrun m (hr m)) (hk m hm), if_pos he]
  exact ticksLeft_ageCounter_le _

/-- By induction on the ticks left: they never grow, and the next frame tick takes one away. -/
theorem exists_counter_eq_none (hfair : ∀ m, ∃ m', m ≤ m' ∧ e m' = .frameTick) (left : Nat) :
    ∀ a, n ≤ a → ticksLeft ((r a).counter k) ≤ left → ∃ m, n ≤ m ∧ (r m).counter k = none := by
  induction left with
  | zero => exact fun a ha hleft => ⟨a, ha, eq_none_of_ticksLeft_eq_zero (Nat.le_zero.mp hleft)⟩
  | succ left ih =>
    intro a ha hleft
    obtain ⟨m, ham, he⟩ := hfair a
    have hgrow := ticksLeft_antitone hrun hr hk ha ham
    have hless := ticksLeft_succ_of_frameTick hrun hr hk (ha.trans ham) he
    exact ih (m + 1) (by omega) (by omega)

end

/-- Settles O22: the frame ticks that fairness gives use up the ticks the counter has left. -/
theorem unpressedKeysAreReleasedUnderFairness : Obligations.UnpressedKeysAreReleasedUnderFairness := by
  rintro e r hrun ⟨-, hframe⟩ hr k n hk
  exact exists_counter_eq_none hrun hr hk hframe _ n (Nat.le_refl n) (Nat.le_refl _)

/-! ### SKP and SKNP -/

/-- A hex key's number names that key and no other (R191). -/
theorem keyDown_iff_of_toNat_eq {s : State} {b : Byte} {k : Nibble} (h : b.toNat = k.toNat) :
    KeyDown s b ↔ s.counter (.hex k) ≠ none := by
  refine ⟨?_, fun hk => ⟨k, h, hk⟩⟩
  rintro ⟨j, hj, hcounter⟩
  rwa [BitVec.eq_of_toNat_eq (h.symm.trans hj)]

/-- From 0x10 on a byte names no key (R191). -/
theorem not_keyDown_of_ge {s : State} {b : Byte} (h : 0x10 ≤ b.toNat) : ¬ KeyDown s b := by
  rintro ⟨k, hk, -⟩
  have := k.isLt
  omega

/-- What follows from a key's being down or not, by what the byte names: a pressed key, one not pressed, or none. -/
theorem keyDown_split {s : State} {b : Byte} {down up : Prop} (hdown : KeyDown s b → down) (hup : ¬ KeyDown s b → up) :
    (∀ k : Nibble, b.toNat = k.toNat → s.counter (.hex k) ≠ none → down) ∧
      (∀ k : Nibble, b.toNat = k.toNat → s.counter (.hex k) = none → up) ∧ (0x10 ≤ b.toNat → up) :=
  ⟨fun _ h hk => hdown ((keyDown_iff_of_toNat_eq h).mpr hk),
    fun _ h hk => hup fun hd => (keyDown_iff_of_toNat_eq h).mp hd hk, fun h => hup (not_keyDown_of_ge h)⟩

theorem keyPressed_eq_false_iff (s : State) (b : Byte) : s.keyPressed b = false ↔ ¬ KeyDown s b := by
  rw [← keyPressed_iff, Bool.not_eq_true]

/-- Settles O52: SKP is a skip on KeyPressed, and SKNP on its negation. -/
theorem keySkipsTestTheNamedKey : Obligations.KeySkipsTestTheNamedKey := by
  intro x s
  have hdown := keyPressed_iff s (s.readV x)
  have hup := keyPressed_eq_false_iff s (s.readV x)
  refine ⟨⟨decode_encode (.skp x), _, rfl, ?skp⟩, ⟨decode_encode (.sknp x), _, rfl, ?sknp⟩⟩
  case skp =>
    obtain ⟨skips, goesOn, frame⟩ := skipIf_skips s hdown hup
    obtain ⟨pressed, released, unnamed⟩ := keyDown_split skips goesOn
    exact ⟨pressed, released, unnamed, frame⟩
  case sknp =>
    obtain ⟨skips, goesOn, frame⟩ :=
      skipIf_skips s ((Bool.not_eq_true' _).to_iff.trans hup) ((Bool.not_eq_false' _).to_iff.trans hdown)
    obtain ⟨pressed, released, unnamed⟩ := keyDown_split goesOn skips
    exact ⟨pressed, released, unnamed, frame⟩

/-! ### LD Vx, K -/

section
variable {x : Nibble} {s t : State} {k : Nibble}

theorem exec_ldVxK_of_no_key (h : s.takeKey = (none, t)) : exec (.ldVxK x) s = .next t := by
  rw [exec, execLdVxK, h]

theorem exec_ldVxK_of_key (h : s.takeKey = (some k, t)) :
    exec (.ldVxK x) s = .next (t.writeV x (k.setWidth 8)).advance := by
  rw [exec, execLdVxK, h]

theorem takeKey_pressedButton (h : s.cfg.fx0aMode = .pressedButton) : s.takeKey = s.pressedButton := by
  rw [State.takeKey, h]

theorem takeKey_nextPress (h : s.cfg.fx0aMode = .nextPress) : s.takeKey = s.waitKey := by
  rw [State.takeKey, h]

end

/-- A key number as a register value (R199). -/
theorem setWidth_nibble_toNat (k : Nibble) : (k.setWidth 8).toNat = k.toNat := by
  rw [BitVec.toNat_setWidth, Nat.mod_eq_of_lt (k.isLt.trans (by decide))]

/-- With a key taken, V[x] is its number, pc is two further, and beside them only what taking it wrote has changed
(R199). -/
theorem exec_ldVxK_stores_key {parts : List Part} {s t : State} {k : Nibble} (e : s.takeKey = (some k, t))
    (h : OnlyWrites parts s t) (hv : .v ∉ parts) (hp : .pc ∉ parts) (x : Nibble) :
    ∃ b, exec (.ldVxK x) s = .next (t.writeV x b).advance ∧ b.toNat = k.toNat ∧
      RegBecomes s (t.writeV x b).advance x b ∧ (t.writeV x b).advance.pc = s.pc + 2 ∧
      OnlyWrites (parts ++ [.v, .pc]) s (t.writeV x b).advance := by
  have hpc : t.pc = s.pc := pc_of_onlyWrites h hp
  exact ⟨_, exec_ldVxK_of_key e, setWidth_nibble_toNat k,
    ⟨readV_writeV_same t x _, fun r hr => (readV_writeV_ne t _ hr).trans (readV_of_onlyWrites h hv r)⟩,
    congrArg (· + 2) hpc, h.trans (writeV_advance_onlyWrites t x _)⟩

theorem exec_ldVxK_pressedButton {s : State} (hm : s.cfg.fx0aMode = .pressedButton) (x : Nibble) :
    ((∀ k, s.counter (.hex k) = none) → exec (.ldVxK x) s = .next s) ∧
    ((∃ k, s.counter (.hex k) ≠ none) → ∃ t b, exec (.ldVxK x) s = .next t ∧
      (∃ k : Nibble, s.counter (.hex k) ≠ none ∧ b.toNat = k.toNat) ∧ RegBecomes s t x b ∧ t.pc = s.pc + 2 ∧
      OnlyChanges [.v, .pc, .draws] s t) := by
  have htake := takeKey_pressedButton hm
  have hpressed (k : Nibble) : s.isPressed (.hex k) = true ↔ s.counter (.hex k) ≠ none := Option.isSome_iff_ne_none
  rcases pressedButton_cases s with ⟨hnone, e⟩ | ⟨k, hk, htaken⟩
  · refine ⟨fun _ => exec_ldVxK_of_no_key (htake.trans e), ?_⟩
    rintro ⟨k, hk⟩
    exact absurd ((hpressed k).mpr hk) (by simp [hnone k])
  · have hdown := (hpressed k).mp hk
    obtain ⟨t, e, ht⟩ : ∃ t, s.pressedButton = (some k, t) ∧ OnlyWrites [.draws] s t := by
      rcases htaken with e | e
      · exact ⟨s, e, .refl _ s⟩
      · exact ⟨s.nextDraw, e, nextDraw_onlyWrites s⟩
    refine ⟨fun hnone => absurd (hnone k) hdown, fun _ => ?_⟩
    obtain ⟨b, hx, hb, hreg, hpc, hframe⟩ := exec_ldVxK_stores_key (htake.trans e) ht (by decide) (by decide) x
    exact ⟨_, b, hx, ⟨k, hdown, hb⟩, hreg, hpc, (hframe.mono (by decide)).onlyChanges⟩

theorem exec_ldVxK_nextPress {s : State} (hm : s.cfg.fx0aMode = .nextPress) (x : Nibble) :
    (s.wait = .none → ∃ t, exec (.ldVxK x) s = .next t ∧ t.wait = .waiting ∧ OnlyChanges [.wait] s t) ∧
    (s.wait = .waiting → exec (.ldVxK x) s = .next s) ∧
    (∀ k, s.wait = .delivered k → ∃ t b, exec (.ldVxK x) s = .next t ∧ t.wait = .none ∧ b.toNat = k.toNat ∧
      RegBecomes s t x b ∧ t.pc = s.pc + 2 ∧ OnlyChanges [.v, .pc, .wait] s t) := by
  have htake := takeKey_nextPress hm
  refine ⟨fun hw => ?none, fun hw => ?waiting, fun k hw => ?delivered⟩
  case none =>
    exact ⟨_, exec_ldVxK_of_no_key (htake.trans (by rw [State.waitKey, hw])), rfl, (setWait_onlyWrites s _).onlyChanges⟩
  case waiting => exact exec_ldVxK_of_no_key (htake.trans (by rw [State.waitKey, hw]))
  case delivered =>
    have e : s.takeKey = (some k, s.setWait .none) := htake.trans (by rw [State.waitKey, hw])
    obtain ⟨b, hx, hb, hreg, hpc, hframe⟩ :=
      exec_ldVxK_stores_key e (setWait_onlyWrites s _) (by decide) (by decide) x
    exact ⟨_, b, hx, rfl, hb, hreg, hpc, (hframe.mono (by decide)).onlyChanges⟩

/-- Settles O53: by the mode, then by whether a key is pressed or by what the subscriber holds. -/
theorem waitForKey : Obligations.WaitForKey := fun x _ =>
  ⟨decode_encode (.ldVxK x), fun hm => exec_ldVxK_pressedButton hm x, fun hm => exec_ldVxK_nextPress hm x⟩

/-! ### The timer instructions -/

/-- With TIMERS = Absent the timer instructions only go on (R200 to R202). -/
theorem exec_timer_of_absent {i : Instr} {x : Nibble} {s : State} (ha : s.cfg.timers = .absent)
    (hi : i ∈ [Instr.ldVxDt x, .ldDtVx x, .ldStVx x]) : exec i s = .next s.advance := by
  have hnp : s.cfg.timers ≠ .present := by rw [ha]; decide
  simp only [List.mem_cons, List.not_mem_nil, or_false] at hi
  rcases hi with rfl | rfl | rfl
  · exact ((execLdVxDt_cases x s).resolve_right fun h => hnp h.1).2
  · exact ((execLdDtVx_cases x s).resolve_right fun h => hnp h.1).2
  · exact ((execLdStVx_cases x s).resolve_right fun h => hnp h.1).2

/-- Settles O54: by the parameter TIMERS. -/
theorem timerInstructions : Obligations.TimerInstructions := by
  intro x s
  refine ⟨decode_encode (.ldVxDt x), decode_encode (.ldDtVx x), decode_encode (.ldStVx x), fun ha i hi => ?absent,
    fun hp => ?present⟩
  case absent => exact ⟨_, exec_timer_of_absent ha hi, rfl, (advance_onlyWrites s).onlyChanges⟩
  case present =>
    have hna : s.cfg.timers ≠ .absent := by rw [hp]; decide
    obtain ⟨-, readDt⟩ := (execLdVxDt_cases x s).resolve_left fun h => hna h.1
    obtain ⟨-, writeDt⟩ := (execLdDtVx_cases x s).resolve_left fun h => hna h.1
    obtain ⟨-, writeSt⟩ := (execLdStVx_cases x s).resolve_left fun h => hna h.1
    obtain ⟨t, load, ht⟩ := loadV_loads s x s.dt
    exact ⟨⟨t, readDt.trans load, ht⟩,
      ⟨_, writeDt, rfl, rfl, rfl, ((setDt_onlyWrites s _).trans (advance_onlyWrites _)).onlyChanges⟩,
      ⟨_, writeSt, rfl, rfl, rfl, ((setSt_onlyWrites s _).trans (advance_onlyWrites _)).onlyChanges⟩⟩

end Sys2Proof.Machine
end

section
/-! SUPPORT. What a transition answers, how a tick that faults ends, what a frame tick does, and that no instruction
reads the clocks, with the proofs of O12, O14, O16 to O19 and O25. -/

namespace Sys2Proof.Machine

/-! ### Every transition answers a state (R218, R224) -/

/-- Settles O16: a stopped machine's transition is to the same state. -/
theorem stoppedMachineNeverChanges : Obligations.StoppedMachineNeverChanges := transition_stopped

/-- Settles O18, by the event the transition takes: the step of an instruction tick always answers a state. -/
theorem everyStepAnswersANextState : Obligations.EveryStepAnswersANextState := by
  intro s
  by_cases hr : s.run = .running
  · cases hn : s.nextEvent with
    | instrTick ks =>
      obtain ⟨w, hw, -, -⟩ := instrTick_cases (s.setInputs s.inputs.tail) ks
      exact ⟨_, step_of_runInstr hr hn hw⟩
    | frameTick => exact ⟨_, transition_frameTick s hr hn⟩
    | registerPress k => exact ⟨_, transition_registerPress s k hr hn⟩
  · exact ⟨s, transition_stopped s hr⟩

/-! ### A step that faults (R211, R214, R215) -/

/-- The step of R94 stops on a fatal condition of the instruction at pc, or it completes an instruction. -/
theorem runInstr_faults_or_completes (s : State) :
    (∃ kind b0 b1 addr, s.runInstr = .next (s.stopFault (s.faultRecord kind b0 b1 addr))) ∨
    ∃ w, s.runInstr = .next w ∧ Completed s w := by
  obtain ⟨w, hw, -, -⟩ := instrTick_cases s []
  rcases runInstr_eq_next hw with ⟨kind, b0, b1, addr, rfl, -⟩ | ⟨-, i, hx⟩
  · exact .inl ⟨kind, b0, b1, addr, hw⟩
  · rcases exec_cases i s with ⟨kind, addr, hraise, -⟩ | ⟨t, hnext, hc⟩
    · exact .inl ⟨kind, _, _, addr, hw.trans (hx.symm.trans hraise)⟩
    · exact .inr ⟨t, hw.trans (hx.symm.trans hnext), hc⟩

/-- A tick whose step completed an instruction does not end in a fault: the exit check stops the run normally (R222). -/
theorem endTick_run_ne_stoppedFault {w : State} (ks : List Key) (reference : Prop) [Decidable reference]
    (h : w.run = .running) : (w.endTick ks reference).run ≠ .stoppedFault := by
  rw [endTick_run_of_running ks reference h]
  split <;> decide

/-- Settles O19: the step of R94 stopped on its fatal condition, as a completed instruction ends no tick in a fault. -/
theorem faultingStepHasNoOtherEffect : Obligations.FaultingStepHasNoOtherEffect := by
  intro s t ks hr hn h hfault
  rcases runInstr_faults_or_completes (s.setInputs s.inputs.tail) with ⟨kind, b0, b1, addr, hw⟩ | ⟨w, hw, hc⟩
  · obtain ⟨u, hu, -, hframe, hinputs, hrecord⟩ := step_of_fault hr hn hw
    cases hu.symm.trans h
    exact ⟨hframe, hinputs, _, hrecord, rfl⟩
  · cases (step_of_runInstr hr hn hw).symm.trans h
    exact absurd hfault (endTick_run_ne_stoppedFault ks _ (hc.run.trans hr))

/-- Below 0xFFF the step of R94 on an illegal word is DecodeError with the two bytes at pc (R90, R211). -/
theorem runInstr_of_illegalWord {s : State} (hpc : s.pc.toNat < 0xFFF)
    (h : IllegalWord (joinBytes (s.readByte s.pc.toNat) (s.readByte (s.pc.toNat + 1)))) :
    s.runInstr = .next (s.stopFault (s.faultRecord .decodeError (some (s.readByte s.pc.toNat))
      (some (s.readByte (s.pc.toNat + 1))) none)) := by
  obtain ⟨e, he⟩ := (illegalWordsAreTheListedOnes _).mpr h
  simp only [State.runInstr, fetch_of_pc_lt hpc, State.runWord, he]

/-- Settles O12: an illegal word is a tick that faults. -/
theorem illegalWordStopsTheRun : Obligations.IllegalWordStopsTheRun := fun s _ hr hn hpc h =>
  step_of_fault hr hn (runInstr_of_illegalWord (s := s.setInputs s.inputs.tail) hpc h)

/-! ### The reference schedule (R228) -/

theorem endTick_of_reference {w : State} {ks : List Key} {reference : Prop} [Decidable reference] (h : reference) :
    w.endTick ks reference = (w.pressBetween ks).exitCheck.countTick := if_pos h

/-- Settles O17: as the run goes on, the step completed and left div and the events to come for the tick's count. -/
theorem referenceScheduleIsNineToOne : Obligations.ReferenceScheduleIsNineToOne := by
  intro s t hr hi h hrun
  have hn := nextEvent_nil hi
  refine ⟨hn, ?_⟩
  rcases runInstr_faults_or_completes (s.setInputs s.inputs.tail) with ⟨kind, b0, b1, addr, hw⟩ | ⟨w, hw, hc⟩
  · obtain ⟨u, hu, hfault, -⟩ := step_of_fault hr hn hw
    cases hu.symm.trans h
    exact absurd (hfault.symm.trans hrun) (by decide)
  · cases (step_of_runInstr hr hn hw).symm.trans h
    rw [endTick_of_reference hi, pressBetween_nil] at hrun ⊢
    have hdiv : w.exitCheck.div = s.div := (exitCheck_div w).trans hc.div
    have hinputs : w.exitCheck.inputs = [] := by rw [exitCheck_inputs, hc.inputs, setInputs_inputs, hi, List.tail_nil]
    rw [← hdiv, ← hinputs]
    rcases countTick_running ((countTick_run _).symm.trans hrun) with ⟨hlt, e, hincr⟩ | ⟨h8, e⟩
    · rw [e]
      exact ⟨fun _ => ⟨hincr, rfl⟩, fun h8 => absurd h8 hlt.ne⟩
    · rw [e, issueFrame_inputs, hinputs]
      exact ⟨fun hlt => absurd h8 hlt.ne, fun _ => ⟨rfl, rfl⟩⟩

/-! ### The frame tick (R190, R223, R230) -/

theorem flush_onlyWrites (s : State) : OnlyWrites [.shown] s s.flush := by
  intro p hp
  cases p
  case shown => exact absurd hp (by decide)
  all_goals rfl

theorem keyTick_onlyWrites (s : State) : OnlyWrites [.keys] s s.keyTick := by
  intro p hp
  cases p
  case keys => exact absurd hp (by decide)
  all_goals rfl

theorem timersTick_onlyWrites (s : State) : OnlyWrites [.timers] s s.timersTick := by
  unfold State.timersTick
  split
  · exact .refl _ s
  · exact ((setDt_onlyWrites s _).trans (setSt_onlyWrites _ _)).mono (by decide)

theorem frameTick_onlyWrites (s : State) : OnlyWrites [.shown, .keys, .timers] s s.frameTick :=
  ((flush_onlyWrites s).trans (keyTick_onlyWrites _)).trans (timersTick_onlyWrites _)

theorem frameTick_shown (s : State) : s.frameTick.shown = some s.fb := by
  rw [State.frameTick, timersTick_shown]
  rfl

theorem ageCounter_some (c : Nat) : ageCounter (some c) = if c ≤ 1 then none else some (c - 1) := by
  simp only [ageCounter, Nat.sub_eq_zero_iff_le]

theorem countDown_toNat (b : Byte) : (countDown b).toNat = b.toNat - 1 := by
  unfold countDown
  split
  · next h => rw [h]; rfl
  · next h => bv_omega

theorem frameTick_timers_of_present {s : State} (hp : s.cfg.timers = .present) :
    s.frameTick.dt = countDown s.dt ∧ s.frameTick.st = countDown s.st := by
  have hf : s.frameTick = (s.flush.keyTick.setDt (countDown s.dt)).setSt (countDown s.st) := by
    simp only [State.frameTick, State.timersTick, keyTick_cfg, flush_cfg, hp]
    rfl
  rw [hf]
  exact ⟨rfl, rfl⟩

/-- Settles O14: the frame tick handles the state with the tick taken off, clause by clause. -/
theorem frameTickFlushesAgesAndCountsDown : Obligations.FrameTickFlushesAgesAndCountsDown := by
  intro s hr hn
  have hcounter := counter_frameTick (s.setInputs s.inputs.tail)
  refine ⟨_, transition_frameTick s hr hn, frameTick_shown _, fun k hk => ?absentKey, fun k c hk => ?presentKey,
    fun hp => ?present, fun ha => frameTick_timers_of_absent (s := s.setInputs s.inputs.tail) ha, frameTick_inputs _,
    (((setInputs_onlyWrites s _).trans (frameTick_onlyWrites _)).mono (by decide)).onlyChanges⟩
  case absentKey => exact (hcounter k).trans (congrArg ageCounter hk)
  case presentKey => exact (hcounter k).trans ((congrArg ageCounter hk).trans (ageCounter_some c))
  case present =>
    obtain ⟨hdt, hst⟩ := frameTick_timers_of_present (s := s.setInputs s.inputs.tail) hp
    exact ⟨hdt ▸ countDown_toNat s.dt, hst ▸ countDown_toNat s.st⟩

/-! ### Instructions and the clocks (R229, R234) -/

/-- Values of the three fields no instruction reads: the snapshot the host was given, the divider and the events to
come. -/
structure Clocks where
  shown : Option Frame
  div : Fin 9
  inputs : List Event

/-- The state with other values in those fields. -/
def State.withClocks (s : State) (c : Clocks) : State :=
  { s with shown := c.shown, div := c.div, inputs := c.inputs }

/-- What a meaning answers, with other values in those fields of the next state. -/
def resultWithClocks (c : Clocks) : Result → Result
  | .next t => .next (t.withClocks c)
  | .fault r => .fault r
  | .refused r => .refused r

section
variable (s : State) (c : Clocks)

theorem withClocks_cfg : (s.withClocks c).cfg = s.cfg := rfl

theorem withClocks_wait : (s.withClocks c).wait = s.wait := rfl

theorem writeResultAndFlag_withClocks (x : Nibble) (res flag : Byte) :
    (s.withClocks c).writeResultAndFlag x res flag = (s.writeResultAndFlag x res flag).withClocks c := by
  unfold State.writeResultAndFlag
  rw [withClocks_cfg]
  split <;> rfl

theorem aluFlag_withClocks (x : Nibble) (res flag : Byte) :
    (s.withClocks c).aluFlag x res flag = resultWithClocks c (s.aluFlag x res flag) :=
  congrArg (fun t : State => Host.Outcome.next t.advance) (writeResultAndFlag_withClocks s c x res flag)

/-- A checked access does the same when what it is to do does. -/
theorem checked_withClocks {n : Nat} {ins : Instr} {t u : State} (hu : u = t.withClocks c) :
    (s.withClocks c).checked n ins u = resultWithClocks c (s.checked n ins t) := by
  have hbad : (s.withClocks c).badIndexAddr n = s.badIndexAddr n := rfl
  unfold State.checked
  rw [hbad, hu]
  cases s.badIndexAddr n <;> rfl

theorem push_withClocks (w : Word) : (s.withClocks c).push w = (s.push w).map (·.withClocks c) := by
  cases h : s.push w with
  | none =>
    have hfull := push_eq_none.mp h
    exact push_eq_none.mpr hfull
  | some t =>
    obtain ⟨hlt, rfl⟩ := push_eq_some.mp h
    exact push_eq_some.mpr ⟨hlt, rfl⟩

theorem pop_withClocks : (s.withClocks c).pop = s.pop.map fun r => (r.1, r.2.withClocks c) := by
  cases h : s.pop with
  | none =>
    have hempty := pop_eq_none.mp h
    exact pop_eq_none.mpr hempty
  | some r =>
    obtain ⟨w, t⟩ := r
    obtain ⟨hne, rfl, rfl⟩ := pop_eq_some.mp h
    exact pop_eq_some.mpr ⟨hne, rfl, rfl⟩

theorem execRet_withClocks : execRet (s.withClocks c) = resultWithClocks c (execRet s) := by
  unfold execRet
  rw [pop_withClocks]
  cases s.pop <;> rfl

theorem execCall_withClocks (nnn : Addr12) :
    execCall nnn (s.withClocks c) = resultWithClocks c (execCall nnn s) := by
  have hpush : (s.withClocks c).push ((s.withClocks c).pc + 2) = (s.push (s.pc + 2)).map (·.withClocks c) :=
    push_withClocks s c _
  unfold execCall
  rw [hpush]
  cases s.push (s.pc + 2) <;> rfl

theorem pressedButton_withClocks :
    (s.withClocks c).pressedButton = (s.pressedButton.1, s.pressedButton.2.withClocks c) := by
  have hkeys : (s.withClocks c).pressedHexKeys = s.pressedHexKeys := rfl
  unfold State.pressedButton
  rw [hkeys]
  rcases s.pressedHexKeys with _ | ⟨k, _ | ⟨j, ks⟩⟩ <;> rfl

theorem waitKey_withClocks : (s.withClocks c).waitKey = (s.waitKey.1, s.waitKey.2.withClocks c) := by
  unfold State.waitKey
  rw [withClocks_wait]
  cases s.wait <;> rfl

theorem takeKey_withClocks : (s.withClocks c).takeKey = (s.takeKey.1, s.takeKey.2.withClocks c) := by
  unfold State.takeKey
  rw [withClocks_cfg]
  cases s.cfg.fx0aMode with
  | pressedButton => exact pressedButton_withClocks s c
  | nextPress => exact waitKey_withClocks s c

theorem execLdVxK_withClocks (x : Nibble) : execLdVxK x (s.withClocks c) = resultWithClocks c (execLdVxK x s) := by
  unfold execLdVxK
  rw [takeKey_withClocks]
  rcases s.takeKey with ⟨_ | k, t⟩ <;> rfl

/-- With other values in the three fields an instruction does the same. -/
theorem exec_withClocks (i : Instr) : exec i (s.withClocks c) = resultWithClocks c (exec i s) := by
  cases i
  case ret => exact execRet_withClocks s c
  case call nnn => exact execCall_withClocks s c nnn
  case ldVxK x => exact execLdVxK_withClocks s c x
  case addReg | sub | shr | subn | shl => exact aluFlag_withClocks s c _ _ _
  case drw | ldB | ldMemVx | ldVxMem => exact checked_withClocks s c (by rfl)
  case ldVxDt | ldDtVx | ldStVx =>
    simp only [exec, execLdVxDt, execLdDtVx, execLdStVx, withClocks_cfg]
    cases s.cfg.timers <;> rfl
  all_goals rfl

end

/-- Settles O25: an instruction is made of operations none of which reads the three fields. -/
theorem instructionsDoNotReadTheClocks : Obligations.InstructionsDoNotReadTheClocks := by
  intro i s shown div inputs
  refine (exec_withClocks s ⟨shown, div, inputs⟩ i).trans ?_
  cases exec i s <;> rfl

end Sys2Proof.Machine
end
